-- ==== Sys2Proof/Word.lean ====
section
/-! DEFINITION. The widths of the spec: bytes, instruction words and 64-bit registers (00_scope.md section 5.1, R2, R31). -/

namespace Sys2Proof

/-- One byte, the unit in which R21 numbers the bytes of a register and in which the instruction memory is held. -/
abbrev Byte := BitVec 8

/-- One 32-bit instruction word (R31). -/
abbrev Word := BitVec 32

/-- The 64-bit value of a general-purpose or System register (R2, R11, R15, R16). -/
abbrev Reg := BitVec 64

end Sys2Proof
end

