-- ==== Sys2Proof/Config.lean ====
section
/-! DEFINITION. What an implementation fixes (00_scope.md section 4) as plain data, and the free values the spec calls `draw`. -/

namespace Sys2Proof

/-- The Virtual Context Identifier Comparators this register masks: n = 4, 5, 6, 7 and no other (R1, R40). -/
inductive Comparator where
  | c4 | c5 | c6 | c7
deriving DecidableEq, Repr

/-- The parameter `RES0_READ` (R5, D1): what a read returns in RES0 bits. -/
inductive Res0Read where
  | zero
  | draw
deriving DecidableEq, Repr

/-- The two readings of `WritableMask` R8 offers (D3): by `NUMVMIDC` and `VMIDSIZE`, or all 32 mask bits read/write. -/
inductive MaskReading where
  | implemented
  | sourceOnly
deriving DecidableEq, Repr

/-- The two treatments R47 offers of a write made while the trace unit is not Idle (D11). -/
inductive NonIdleWrite where
  | refuse
  | draw
deriving DecidableEq, Repr

/-- The two results R36 offers for a comparison with all eight bytes ignored (D19). -/
inductive AllIgnored where
  | matches
  | draw
deriving DecidableEq, Repr

/-- The parameters of one implementation (00_scope.md section 4, D8: constant over a run). The last three fields are the
model choices the spec leaves to its reader, each with both of its settings. -/
structure Config where
  /-- "FEAT_ETE is implemented" (R3). -/
  featEte : Bool
  /-- "System register access to the trace unit registers is implemented" (R3). -/
  sysRegTrace : Bool
  /-- `UInt(TRCIDR4.NUMVMIDC)` (R12). -/
  numVmidc : Nat
  /-- `UInt(TRCIDR2.VMIDSIZE)` (R12). -/
  vmidSize : Nat
  /-- `HaveEL(EL3)` (R49). -/
  haveEl3 : Bool
  /-- `IsFeatureImplemented(FEAT_FGT)` (R49). -/
  featFgt : Bool
  /-- `IsFeatureImplemented(FEAT_TRBE_EXT)` (R49). -/
  featTrbeExt : Bool
  /-- `RES0_READ` (R5). -/
  res0Read : Res0Read
  /-- Which `WritableMask` R8 means (D3). -/
  maskReading : MaskReading
  /-- Which treatment of R47 the machine has (D11). -/
  nonIdleWrite : NonIdleWrite
  /-- Which result of R36 the machine has (D19). -/
  allIgnored : AllIgnored
deriving DecidableEq, Repr

/-- Free value: the `k`-th 64-bit `draw` of a run (00_scope.md section 5.2). No body, so nothing is known of it (log 29). -/
opaque Config.freeWord : Nat → Reg

/-- Free value: the `k`-th one-bit `draw` of a run (R39, R47) (log 29). -/
opaque Config.freeBit : Nat → Bool

/-- DESIGN CHOICE (log 4): the draw made once at reset for the mask bits, before `WritableMask` is applied (R9, R63). -/
opaque Config.resetMask : Reg

/-- DESIGN CHOICE (log 10): the draw made once at reset for `TRCVMIDCVR<n>` (R11, R63). -/
opaque Config.resetValueRegister : Nat → Reg

/-- DESIGN CHOICE (log 11): the draw made once at reset for `VCID` (R35, R63). -/
opaque Config.resetVcid : Reg

/-- DESIGN CHOICE (log 5): the draw made once at reset for `x[t]` (R15, R63). -/
opaque Config.resetGpr : Nat → Reg

/-- DESIGN CHOICE (log 1): the parameters of the machine that `State.reset` is: those of the programs of 95_test_vectors.md
Part 3, every feature present, and the open treatments set so that the machine runs on. -/
def Config.full : Config where
  featEte := true
  sysRegTrace := true
  numVmidc := 8
  vmidSize := 4
  haveEl3 := true
  featFgt := true
  featTrbeExt := true
  res0Read := .draw
  maskReading := .implemented
  nonIdleWrite := .draw
  allIgnored := .matches

end Sys2Proof
end

