-- ==== Sys2Proof/Machine/Params.lean ====
section
/-! DEFINITION. What follows from the parameters alone: presence (R3), comparator numbers (R40) and `WritableMask` (R8). -/

namespace Sys2Proof.Machine

/-- The `n` of `TRCVMIDCVR<n>` and `COMPn` (R6). -/
def comparatorNumber : Comparator → Nat
  | .c4 => 4
  | .c5 => 5
  | .c6 => 6
  | .c7 => 7

/-- `Present` (R3). -/
def present (c : Config) : Bool :=
  c.featEte && c.sysRegTrace && decide (c.numVmidc > 4) && decide (c.vmidSize > 0)

/-- Comparator `n` is implemented (R7, R11): `NUMVMIDC > n`. -/
def comparatorPresent (c : Config) (n : Comparator) : Bool :=
  decide (c.numVmidc > comparatorNumber n)

/-- `COMPn[m]` is register bit `8*(n-4) + m` (R4). -/
def maskBitIndex (n m : Nat) : Nat := 8 * (n - 4) + m

/-- One term of R8's formula: the bit of `COMPn[m]`, where it is read/write. -/
def writableBit (c : Config) (n m : Nat) : Reg :=
  if c.numVmidc > n ∧ m < c.vmidSize then 1#64 <<< maskBitIndex n m else 0#64

/-- The pairs (n, m) of R8's formula. -/
def maskBits : List (Nat × Nat) :=
  [4, 5, 6, 7].flatMap fun n => (List.range 8).map fun m => (n, m)

/-- `WritableMask` (R8): the OR over n in 4..7 and m in 0..7, or, in a machine that takes nothing but the source, all 32 mask
bits (D3, log 3). -/
def writableMask (c : Config) : Reg :=
  match c.maskReading with
  | .implemented => maskBits.foldr (fun p acc => writableBit c p.1 p.2 ||| acc) 0#64
  | .sourceOnly => 0x00000000FFFFFFFF#64

end Sys2Proof.Machine
end

