-- ==== Sys2Proof/Machine/State.lean ====
section
/-! DEFINITION. The state of the machine as plain data, the reasons a step can stop, and the state after reset. -/

namespace Sys2Proof.Machine

/-- `PSTATE.EL` (R14): the four Exception levels, EL0 lowest. -/
inductive ExceptionLevel where
  | el0 | el1 | el2 | el3
deriving DecidableEq, Repr

/-- The one-bit control fields the access procedures read (R13). -/
inductive Control where
  | cpacrEl1Tta | cptrEl2Tta | hdfgrtrEl2Trc | hdfgwtrEl2Trc | scrEl3Fgten | cptrEl3Tta | oslsrEl1Oslk | edscr2Tta
deriving DecidableEq, Repr

/-- The run-time predicates the access procedures call (R49). -/
inductive Predicate where
  | el2Enabled | sddPrio | sddUndef | haltingAllowed | el1IsA32
deriving DecidableEq, Repr

/-- The values of the control fields of R13; `true` is `'1'`. -/
structure Controls where
  /-- `CPACR_EL1.TTA`. -/
  cpacrEl1Tta : Bool
  /-- `CPTR_EL2.TTA`. -/
  cptrEl2Tta : Bool
  /-- `HDFGRTR_EL2.TRC`, read by `MRS` only. -/
  hdfgrtrEl2Trc : Bool
  /-- `HDFGWTR_EL2.TRC`, read by `MSR` only. -/
  hdfgwtrEl2Trc : Bool
  /-- `SCR_EL3.FGTEn`. -/
  scrEl3Fgten : Bool
  /-- `CPTR_EL3.TTA`. -/
  cptrEl3Tta : Bool
  /-- `OSLSR_EL1.OSLK`. -/
  oslsrEl1Oslk : Bool
  /-- `EDSCR2.TTA`. -/
  edscr2Tta : Bool
deriving DecidableEq, Repr

/-- The values of the predicates of R49 that are state (D8). -/
structure Predicates where
  /-- `EL2Enabled()`. -/
  el2Enabled : Bool
  /-- `EL3SDDUndefPriority()`. -/
  sddPrio : Bool
  /-- `EL3SDDUndef()`. -/
  sddUndef : Bool
  /-- `HaltingAllowed()`. -/
  haltingAllowed : Bool
  /-- `ELUsingAArch32(EL1)`. -/
  el1IsA32 : Bool
deriving DecidableEq, Repr

/-- One value for each of the comparators 4 to 7. -/
structure PerComparator (α : Type) where
  c4 : α
  c5 : α
  c6 : α
  c7 : α
deriving DecidableEq, Repr

/-- Where the mask's present value comes from (log 16). -/
inductive MaskOrigin where
  /-- Not written since reset or a power event (R9, R62). -/
  | unspecified
  /-- Last written while the trace unit was Idle (R46). -/
  | written
  /-- Written while the trace unit was not Idle, and not since while Idle: R47's "until the next write made while Idle". -/
  | unpredictable
deriving DecidableEq, Repr

/-- What an agent other than the PE does in one step (00_scope.md section 7, R22, R33, R62, D8): the trace unit compares, the
external agent accesses bits [31:0], power is lost, or an input of the procedures changes. -/
inductive Event where
  /-- The trace unit makes the comparison of one comparator (R33). -/
  | compare (n : Comparator)
  /-- The external agent reads bits [31:0] (R22). -/
  | externalRead
  /-- The external agent writes bits [31:0] (R22). -/
  | externalWrite (v : BitVec 32)
  /-- A power or reset event of the register (R9, R62). -/
  | powerEvent
  /-- `PSTATE.EL` becomes `l` (R14). -/
  | setLevel (l : ExceptionLevel)
  /-- A control field changes (R13). -/
  | setControl (c : Control) (b : Bool)
  /-- A predicate changes (R49). -/
  | setPredicate (p : Predicate) (b : Bool)
  /-- The trace unit enters or leaves the Idle state (R17). -/
  | setIdle (b : Bool)
  /-- `TRCVMIDCVR<n>` is written (R11), with any value, bytes at or above `VMIDSIZE` included (log 33). -/
  | setValueRegister (n : Comparator) (v : Reg)
  /-- The current Virtual context identifier changes (R35), to any value, bytes at or above `VMIDSIZE` included (log 33). -/
  | setVcid (v : Reg)
  /-- Another instruction writes `x[t]` (R15). -/
  | setGpr (t : Nat) (v : Reg)
  /-- Another instruction writes `pc` (R16). -/
  | setPc (v : Reg)
  /-- A byte of the instruction memory is written (log 25); the very next fetch sees it (log 32). -/
  | storeByte (a : Reg) (b : Byte)
deriving DecidableEq, Repr

/-- Who moves at one step. -/
inductive Turn where
  /-- The PE executes the instruction at `pc`. -/
  | pe
  /-- Another agent acts. -/
  | event (e : Event)
deriving DecidableEq, Repr

/-- The instruction memory: (address, byte) pairs, addresses strictly rising; an address not listed has no value (log 25). -/
abbrev Memory := List Host.Cell

/-- The state: every input, register and output the spec names, the parameters (never changed by a step), and the model's own
fields `maskOrigin`, `externalData`, `mem`, `agenda` and `draws` (INVENTORY.md, State). -/
structure State where
  /-- The parameters of 00_scope.md section 4 (log 1). -/
  cfg : Config
  /-- `PSTATE.EL` (R14). -/
  el : ExceptionLevel
  /-- The control fields (R13). -/
  controls : Controls
  /-- The run-time predicates (R49). -/
  predicates : Predicates
  /-- `x[0]` to `x[30]` (R15). -/
  x : Vector Reg 31
  /-- The program counter (R16). -/
  pc : Reg
  /-- `TRCVMIDCCTLR1` (R2): the mask bits in [31:0] where `WritableMask` is 1; nothing reads the other bits. -/
  trcvmidcctlr1 : Reg
  /-- Where the mask's value comes from (R9, R46, R47). -/
  maskOrigin : MaskOrigin
  /-- `TRCVMIDCVR4` to `TRCVMIDCVR7` (R11). -/
  trcvmidcvr : PerComparator Reg
  /-- `VCID` (R35). -/
  vcid : Reg
  /-- `TraceUnitIdle` (R17). -/
  idle : Bool
  /-- `VmidMatch(4)` to `VmidMatch(7)` (R33): the last comparison's result, none before the first and for an absent
  comparator (R41). -/
  vmidMatch : PerComparator (Option Bool)
  /-- What the external agent last read (R10, R22), none before its first read. -/
  externalData : Option (BitVec 32)
  /-- The instruction memory (log 25). -/
  mem : Memory
  /-- Who moves at the next steps, first first; empty: the PE (log 20). -/
  agenda : List Turn
  /-- How many free values the run has drawn (log 29). -/
  draws : Nat
deriving DecidableEq, Repr

/-- The one reason `Halt` is called with (R55). -/
inductive HaltReason where
  /-- `DebugHalt_SoftwareAccess`. -/
  | softwareAccess
deriving DecidableEq, Repr

/-- Why the machine stops with a fault. The first three are the abnormal outcomes of R52: the state is the one before the
instruction (R48, R60), and the run ends there. -/
inductive Fault where
  /-- `Undefined` (R53): raised by MRS and MSR. Safe (D5): what the handler does is out of reach. -/
  | undefined
  /-- `AArch64.SystemAccessTrap(target, code)` (R54), both arguments kept: raised by MRS and MSR. Safe (D6). -/
  | systemAccessTrap (target : ExceptionLevel) (code : Nat)
  /-- `Halt(reason)` (R55): raised by MRS and MSR. Safe (D7). -/
  | halt (reason : HaltReason)
  /-- The PE's fetch finds a byte nothing has written (log 25): raised by fetch only. Safe. -/
  | instructionUnavailable
deriving DecidableEq, Repr

/-- What the model gives no meaning to. -/
inductive Refusal where
  /-- An instruction not modelled yet: raised by a stub arm of `exec` only. Safe. -/
  | notModelled (mnemonic : String)
  /-- A word that is neither access (R32, D17): raised by fetch. Safe. -/
  | notThisRegister (w : Word)
  /-- A write while the trace unit is not Idle, in a machine whose parameter asks for treatment (1) of R47 (D11): raised by
  MSR and by an external write. Safe. -/
  | writeWhileNotIdle
  /-- A comparison by, or a write to the value register of, a comparator that is not implemented (R41): raised by a turn of
  the trace unit. Safe. -/
  | comparatorAbsent (n : Comparator)
  /-- A comparison or an external access while the register is not present (R3): raised by a turn of the trace unit or the
  external agent, never by an instruction, which is UNDEFINED then (R42). Safe. -/
  | registerAbsent
deriving DecidableEq, Repr

/-- The 31 general-purpose registers after reset: draws made once (R63, log 5). -/
def resetGprs : Vector Reg 31 := ⟨((List.range 31).map Config.resetGpr).toArray, by simp⟩

/-- The highest Exception level the parameters name: PRESUMED for `PSTATE.EL` at reset (log 7). -/
def resetLevel (c : Config) : ExceptionLevel := if c.haveEl3 then .el3 else .el1

/-- The machine with parameters `c` right after reset. The spec gives no reset value (R63): what it calls unspecified is a draw
made once, the other inputs have the values of logs 6 to 12. DESIGN CHOICE (log 33): the draws of `TRCVMIDCVR<n>` and `VCID` leave
the bytes at or above `VMIDSIZE` free too, where D20 says a model should take both as zero. -/
def State.resetWith (c : Config) : State where
  cfg := c
  el := resetLevel c
  controls := ⟨false, false, false, false, false, false, false, false⟩
  predicates := ⟨false, false, false, false, false⟩
  x := resetGprs
  pc := 0#64
  trcvmidcctlr1 := if present c then Config.resetMask &&& writableMask c else 0#64
  maskOrigin := .unspecified
  trcvmidcvr := ⟨Config.resetValueRegister 4, Config.resetValueRegister 5, Config.resetValueRegister 6,
    Config.resetValueRegister 7⟩
  vcid := Config.resetVcid
  idle := true
  vmidMatch := ⟨none, none, none, none⟩
  externalData := none
  mem := []
  agenda := []
  draws := 0

/-- The machine right after reset, with the parameters of log 1. -/
def State.reset : State := State.resetWith Config.full

end Sys2Proof.Machine
end

