-- ==== Sys2Proof/Machine/Ops.lean ====
section
/-! DEFINITION. The named operations over memory, registers, free values and the mask register, and the one way an instruction
ends in an abnormal outcome. -/

namespace Sys2Proof.Machine

/-! ### The instruction memory (log 25) -/

/-- The form every memory has: addresses strictly rising and inside the 64-bit address space. An unlisted address has no value,
so no entry can equal what it reads as. -/
abbrev Memory.wf (m : Memory) : Prop :=
  m.Pairwise (fun c d => c.1 < d.1) ∧ ∀ c ∈ m, c.1 < 2 ^ 64

/-- The byte at an address, if one was ever written there. -/
def Memory.read (m : Memory) (a : Nat) : Option Byte :=
  match m with
  | [] => none
  | c :: rest => if c.1 = a then some c.2 else Memory.read rest a

/-- Writes a byte, keeping the addresses rising. -/
def Memory.write (m : Memory) (a : Nat) (b : Byte) : Memory :=
  match m with
  | [] => [(a, b)]
  | c :: rest =>
    if a < c.1 then (a, b) :: c :: rest
    else if a = c.1 then (a, b) :: rest
    else c :: Memory.write rest a b

/-- Writes bytes at consecutive addresses, modulo 2^64. -/
def Memory.writeBytes (m : Memory) (a : Reg) (bs : List Byte) : Memory :=
  match bs with
  | [] => m
  | b :: rest => Memory.writeBytes (m.write a.toNat b) (a + 1) rest

/-! ### One value for each comparator -/

/-- The value for comparator `n`. -/
def PerComparator.get {α : Type} (p : PerComparator α) (n : Comparator) : α :=
  match n with
  | .c4 => p.c4
  | .c5 => p.c5
  | .c6 => p.c6
  | .c7 => p.c7

/-- Replaces the value for comparator `n`. -/
def PerComparator.set {α : Type} (p : PerComparator α) (n : Comparator) (v : α) : PerComparator α :=
  match n with
  | .c4 => { p with c4 := v }
  | .c5 => { p with c5 := v }
  | .c6 => { p with c6 := v }
  | .c7 => { p with c7 := v }

/-! ### Inputs -/

/-- Replaces one control field (R13). -/
def Controls.set (f : Controls) (c : Control) (b : Bool) : Controls :=
  match c with
  | .cpacrEl1Tta => { f with cpacrEl1Tta := b }
  | .cptrEl2Tta => { f with cptrEl2Tta := b }
  | .hdfgrtrEl2Trc => { f with hdfgrtrEl2Trc := b }
  | .hdfgwtrEl2Trc => { f with hdfgwtrEl2Trc := b }
  | .scrEl3Fgten => { f with scrEl3Fgten := b }
  | .cptrEl3Tta => { f with cptrEl3Tta := b }
  | .oslsrEl1Oslk => { f with oslsrEl1Oslk := b }
  | .edscr2Tta => { f with edscr2Tta := b }

/-- Replaces one predicate (R49). -/
def Predicates.set (f : Predicates) (p : Predicate) (b : Bool) : Predicates :=
  match p with
  | .el2Enabled => { f with el2Enabled := b }
  | .sddPrio => { f with sddPrio := b }
  | .sddUndef => { f with sddUndef := b }
  | .haltingAllowed => { f with haltingAllowed := b }
  | .el1IsA32 => { f with el1IsA32 := b }

/-! ### Free values (log 29) -/

/-- `draw(64)`: the next free word. -/
def nextWord (s : State) : Reg := Config.freeWord s.draws

/-- `draw(1)`: the free bit `k` places on. -/
def nextBit (s : State) (k : Nat) : Bool := Config.freeBit (s.draws + k)

/-- Counts `k` free values as used, so that no later step draws them again. -/
def State.advanceDraws (s : State) (k : Nat) : State := { s with draws := s.draws + k }

/-! ### Completion and abnormal outcomes -/

/-- Completion of an access: `pc <- pc + 4`, modulo 2^64 (R16, R51). -/
def State.advancePc (s : State) : State := { s with pc := s.pc + 4#64 }

/-- An abnormal outcome (R52, R60): the step answers the fault; no state changes, `pc` included, and the run ends. The spec gives
no exception entry to perform (logs 13, 14). -/
def raise (f : Fault) : Host.Outcome State Fault Refusal := .fault f

/-- Continues after a step that answered a next state. -/
def onNext (o : Host.Outcome State Fault Refusal) (f : State → State) : Host.Outcome State Fault Refusal :=
  match o with
  | .next s => .next (f s)
  | .fault r => .fault r
  | .refused r => .refused r

/-! ### The mask register -/

/-- What a read returns in RES0 bits: `RES0_READ` (R5, D1, log 2). -/
def res0Bits (s : State) : Reg :=
  match s.cfg.res0Read with
  | .zero => 0#64
  | .draw => nextWord s

/-- `ReadValue()` (R45): the stored mask bit where `WritableMask` is 1, `RES0_READ` elsewhere. -/
def readValue (s : State) : Reg :=
  (s.trcvmidcctlr1 &&& writableMask s.cfg) ||| (res0Bits s &&& ~~~writableMask s.cfg)

/-- The register with every writable bit replaced by `v`'s and every other bit of `v` dropped (R46). -/
def replaceWritable (s : State) (v : Reg) : Reg :=
  (s.trcvmidcctlr1 &&& ~~~writableMask s.cfg) ||| (v &&& writableMask s.cfg)

/-- A write while the trace unit is Idle (R46): the writable bits are replaced and nothing else changes. -/
def writeIdle (v : Reg) (s : State) : State :=
  { s with trcvmidcctlr1 := replaceWritable s v, maskOrigin := .written }

/-- The output of comparator `n` after it becomes `draw(1)` (R47); an absent comparator has none (R41). -/
def drawnMatch (s : State) (n : Comparator) (k : Nat) : Option Bool :=
  if comparatorPresent s.cfg n then some (nextBit s k) else none

/-- A write while the trace unit is not Idle, treatment (2) of R47: every writable bit and the four match outputs become draws,
and nothing else changes. -/
def writeNotIdle (s : State) : State :=
  { s with
    trcvmidcctlr1 := replaceWritable s (nextWord s)
    maskOrigin := .unpredictable
    vmidMatch := ⟨drawnMatch s .c4 0, drawnMatch s .c5 1, drawnMatch s .c6 2, drawnMatch s .c7 3⟩
    draws := s.draws + 4 }

/-- `WriteValue(v)` (R46, R47), for `MSR` and for the external view alike. -/
def writeValue (v : Reg) (s : State) : Host.Outcome State Fault Refusal :=
  if s.idle then .next (writeIdle v s)
  else match s.cfg.nonIdleWrite with
    | .refuse => .refused .writeWhileNotIdle
    | .draw => .next (writeNotIdle s)

end Sys2Proof.Machine
end

