-- ==== Sys2Proof/Machine/Flags.lean ====
section
/-! DEFINITION. The accesses read and write no condition flag (R18), so there is no flag to compute; what stands here are the
compound one-bit conditions the access procedures test (R43, R44). -/

namespace Sys2Proof.Machine

/-- Which of the two accesses a procedure is run for: it selects the fine-grained trap register (R44). -/
inductive Direction where
  | read
  | write
deriving DecidableEq, Repr

/-- `HDFGRTR_EL2.TRC` for a read, `HDFGWTR_EL2.TRC` for a write (R13, R43, R44). -/
def fineGrainedBit (d : Direction) (s : State) : Bool :=
  match d with
  | .read => s.controls.hdfgrtrEl2Trc
  | .write => s.controls.hdfgwtrEl2Trc

/-- The fine-grained-trap test of the EL1 branch (R43, R44). -/
def fineGrainedTrap (d : Direction) (s : State) : Bool :=
  s.predicates.el2Enabled && s.cfg.featFgt && (!s.cfg.haveEl3 || s.controls.scrEl3Fgten) && fineGrainedBit d s

/-- The EL3 control as EL1 and EL2 test it: `HaveEL(EL3) and CPTR_EL3.TTA = 1` (R43). -/
def el3Control (s : State) : Bool := s.cfg.haveEl3 && s.controls.cptrEl3Tta

/-- The Halt condition without the `ELUsingAArch32(EL1)` term (R55, C3). -/
def haltCondition (s : State) : Bool :=
  s.cfg.featTrbeExt && !s.controls.oslsrEl1Oslk && s.predicates.haltingAllowed && s.controls.edscr2Tta

end Sys2Proof.Machine
end

