-- ==== Sys2Proof/Machine/Access.lean ====
section
/-! DEFINITION. The access procedures of R43 and R44 up to their final `else`, in the source's order (R56). -/

namespace Sys2Proof.Machine

/-- The second argument of every `AArch64.SystemAccessTrap` call (R54). -/
def trapCode : Nat := 0x18

/-- `AArch64.SystemAccessTrap(target, 0x18)` (R54). -/
def trapTo (target : ExceptionLevel) : Fault := .systemAccessTrap target trapCode

/-- An access that would trap to EL3: UNDEFINED under `EL3SDDUndef()`, else the trap (R43, R53 (d)). -/
def el3Outcome (s : State) : Fault :=
  if s.predicates.sddUndef then .undefined else trapTo .el3

/-- The EL1 branch (R43, R44): the abnormal outcome, or none where the access reaches its assignment. -/
def checkEl1 (d : Direction) (s : State) : Option Fault :=
  if s.cfg.haveEl3 && s.predicates.sddPrio && s.controls.cptrEl3Tta then some .undefined
  else if s.controls.cpacrEl1Tta then some (trapTo .el1)
  else if s.predicates.el2Enabled && s.controls.cptrEl2Tta then some (trapTo .el2)
  else if fineGrainedTrap d s then some (trapTo .el2)
  else if el3Control s then some (el3Outcome s)
  else if haltCondition s then some (.halt .softwareAccess)
  else none

/-- The EL2 branch (R43, R44). -/
def checkEl2 (s : State) : Option Fault :=
  if s.cfg.haveEl3 && s.predicates.sddPrio && s.controls.cptrEl3Tta then some .undefined
  else if s.controls.cptrEl2Tta then some (trapTo .el2)
  else if el3Control s then some (el3Outcome s)
  else if !s.predicates.el1IsA32 && haltCondition s then some (.halt .softwareAccess)
  else none

/-- The EL3 branch (R43, R44). -/
def checkEl3 (s : State) : Option Fault :=
  if s.controls.cptrEl3Tta then some (trapTo .el3)
  else if !s.predicates.el1IsA32 && haltCondition s then some (.halt .softwareAccess)
  else none

/-- The whole check: presence first (R42, D18, log 15), then by `PSTATE.EL`. -/
def accessCheck (d : Direction) (s : State) : Option Fault :=
  if present s.cfg then
    match s.el with
    | .el0 => some .undefined
    | .el1 => checkEl1 d s
    | .el2 => checkEl2 s
    | .el3 => checkEl3 s
  else some .undefined

end Sys2Proof.Machine
end

