-- ==== Sys2Proof/Machine/Operands.lean ====
section
/-! DEFINITION. The one operand form, `<Xt>` (R15, R30). -/

namespace Sys2Proof.Machine

/-- `x[t]` read: 64 bits; `t = 31` is the zero register and reads zero (R15, R30). -/
def readX (s : State) (t : Nat) : Reg := if h : t < 31 then s.x[t] else 0#64

/-- `x[t] <- v`: all 64 bits; a write of `t = 31` is discarded (R15, R30). -/
def writeX (s : State) (t : Nat) (v : Reg) : State :=
  if h : t < 31 then { s with x := s.x.set t v } else s

end Sys2Proof.Machine
end

