-- ==== Sys2Proof/Machine/SysReg.lean ====
section
/-! DEFINITION. The meanings of the family SYSREG: `MRS` (R43, R45) and `MSR` (R44, R46, R47). -/

namespace Sys2Proof.Machine

/-- `MRS <Xt>, TRCVMIDCCTLR1` (R43): the checks, then `x[t] <- ReadValue()` and `pc <- pc + 4`. -/
def execMrs (t : Nat) (s : State) : Host.Outcome State Fault Refusal :=
  match accessCheck .read s with
  | some f => raise f
  | none => .next ((writeX s t (readValue s)).advanceDraws 1).advancePc

/-- `MSR TRCVMIDCCTLR1, <Xt>` (R44): the checks, then `WriteValue(x[t])` and `pc <- pc + 4`. -/
def execMsr (t : Nat) (s : State) : Host.Outcome State Fault Refusal :=
  match accessCheck .write s with
  | some f => raise f
  | none => onNext (writeValue (readX s t) s) State.advancePc

end Sys2Proof.Machine
end

