-- ==== Sys2Proof/Syntax.lean ====
section
/-! DEFINITION. The instructions of spec/opcode_table.json, one constructor a row (R28, R30). -/

namespace Sys2Proof

/-- An instruction. Its one operand is the number `t` of the general-purpose register `<Xt>`, 0 to 31, where 31 is the zero
register `XZR` (R15, R30). -/
inductive Instr where
  /-- `MRS <Xt>, TRCVMIDCCTLR1` (R43): `t` is the destination. -/
  | mrs (t : Nat)
  /-- `MSR TRCVMIDCCTLR1, <Xt>` (R44): `t` is the source. -/
  | msr (t : Nat)
deriving DecidableEq, Repr

end Sys2Proof
end

