-- ==== Sys2Proof/Machine/External.lean ====
section
/-! DEFINITION. The external agent's view of bits [31:0] (R10, R22, R25; D15, log 21). -/

namespace Sys2Proof.Machine

/-- Bits [31:0] as the External register gives them: the same storage `MRS` reads (R10). -/
def externalView (s : State) : BitVec 32 := (readValue s).setWidth 32

/-- An external read: no side effect on the machine (R23); what was read is kept in `externalData`. -/
def externalRead (s : State) : Host.Outcome State Fault Refusal :=
  if !present s.cfg then .refused .registerAbsent
  else .next ({ s with externalData := some (externalView s) }.advanceDraws 1)

/-- An external write of bits [31:0], subject to `WritableMask` (R22) and to the Idle rule (R47). -/
def externalWrite (v : BitVec 32) (s : State) : Host.Outcome State Fault Refusal :=
  if !present s.cfg then .refused .registerAbsent
  else writeValue (v.setWidth 64) s

end Sys2Proof.Machine
end

