-- ==== Sys2Proof/Machine/TraceUnit.lean ====
section
/-! DEFINITION. The trace unit's Virtual context identifier comparison (R33 to R41). -/

namespace Sys2Proof.Machine

/-- `byte(r, m)` = `r[(8*m+7):(8*m)]` (R21, 00_scope.md section 5.1). -/
def byteOf (r : Reg) (m : Nat) : Byte := r.extractLsb' (8 * m) 8

/-- `COMPn` as the comparator reads it: a RES0 bit reads as 0 (R4, R7, R8; 40_comparator_mask.md). -/
def comp (s : State) (n : Comparator) : Byte :=
  (s.trcvmidcctlr1 &&& writableMask s.cfg).extractLsb' (maskBitIndex (comparatorNumber n) 0) 8

/-- `m` is in `Ignored(n)`: `COMPn[m] = 1` (R34). -/
def ignored (s : State) (n : Comparator) (m : Nat) : Bool := (comp s n).getLsbD m

/-- `MaskWellFormed(n)` (R38): every masked byte of `TRCVMIDCVR<n>` is `0x00`. -/
def maskWellFormed (s : State) (n : Comparator) : Bool :=
  (List.range 8).all fun m => !ignored s n m || byteOf (s.trcvmidcvr.get n) m == 0#8

/-- The conjunction of R35: every included byte of `TRCVMIDCVR<n>` equals the same byte of `VCID`. -/
def includedBytesEqual (s : State) (n : Comparator) : Bool :=
  (List.range 8).all fun m => ignored s n m || byteOf (s.trcvmidcvr.get n) m == byteOf s.vcid m

/-- `VmidMatch(n)` for one comparison: the table of 40_comparator_mask.md section 4, and a draw after a write made while not Idle
(R47). -/
def vmidMatchValue (s : State) (n : Comparator) : Bool :=
  if s.maskOrigin = .unpredictable then nextBit s 0
  else if !maskWellFormed s n then nextBit s 0
  else if comp s n = 0xFF#8 then
    match s.cfg.allIgnored with
    | .matches => true
    | .draw => nextBit s 0
  else includedBytesEqual s n

/-- One comparison of comparator `n` (R33): its output becomes the result, and nothing else changes (R39). An absent comparator
has no output (R41). -/
def runComparison (n : Comparator) (s : State) : Host.Outcome State Fault Refusal :=
  if !present s.cfg then .refused .registerAbsent
  else if !comparatorPresent s.cfg n then .refused (.comparatorAbsent n)
  else .next ({ s with vmidMatch := s.vmidMatch.set n (some (vmidMatchValue s n)) }.advanceDraws 1)

end Sys2Proof.Machine
end

