-- ==== Sys2Proof/Machine/Environment.lean ====
section
/-! DEFINITION. What every agent but the PE does in its turn (log 20): the trace unit, the external agent, a power event, and a
change of an input between two accesses (R13, R49, D8). -/

namespace Sys2Proof.Machine

/-- The mask's origin after a power event: unspecified (R62), except that R47's draws last "until the next write made while
Idle". -/
def originAfterPower (o : MaskOrigin) : MaskOrigin :=
  match o with
  | .unspecified => .unspecified
  | .written => .unspecified
  | .unpredictable => .unpredictable

/-- A power or reset event: the mask bits become the unspecified reset value, a fresh draw (R9, R62, D24, log 23). A register
that is not present holds no state (R3). -/
def powerEvent (s : State) : State :=
  if present s.cfg then
    { s with
      trcvmidcctlr1 := replaceWritable s (nextWord s)
      maskOrigin := originAfterPower s.maskOrigin
      draws := s.draws + 1 }
  else s

/-- A write of `TRCVMIDCVR<n>`, how is outside the spec (R11, R64 step 3); the register does not exist for an absent comparator
(R41). DESIGN CHOICE (log 33): all 64 bits of `v` are kept, bytes at or above `VMIDSIZE` too, where D20 says a model should take them
as zero. -/
def setValueRegister (n : Comparator) (v : Reg) (s : State) : Host.Outcome State Fault Refusal :=
  if comparatorPresent s.cfg n then .next { s with trcvmidcvr := s.trcvmidcvr.set n v }
  else .refused (.comparatorAbsent n)

/-- One turn of an agent other than the PE. DESIGN CHOICE: `setVcid` keeps all 64 bits of its value, bytes at or above `VMIDSIZE`
too, where D20 says a model should take them as zero (log 33); a byte stored by `storeByte` is seen by the very next fetch, on
which the source is silent (R26, N22; log 32). -/
def runEvent (e : Event) (s : State) : Host.Outcome State Fault Refusal :=
  match e with
  | .compare n => runComparison n s
  | .externalRead => externalRead s
  | .externalWrite v => externalWrite v s
  | .powerEvent => .next (powerEvent s)
  | .setLevel l => .next { s with el := l }
  | .setControl c b => .next { s with controls := s.controls.set c b }
  | .setPredicate p b => .next { s with predicates := s.predicates.set p b }
  | .setIdle b => .next { s with idle := b }
  | .setValueRegister n v => setValueRegister n v s
  | .setVcid v => .next { s with vcid := v }
  | .setGpr t v => .next (writeX s t v)
  | .setPc v => .next { s with pc := v }
  | .storeByte a b => .next { s with mem := s.mem.write a.toNat b }

end Sys2Proof.Machine
end

