-- ==== Sys2Proof/WellFormed.lean ====
section
/-! DEFINITION. Which instruction terms are instructions of the hardware. -/

namespace Sys2Proof

/-- R30: the operand is `t = UInt(Rt)` of a 5-bit field, 0 to 31. -/
def Instr.wellFormed : Instr → Bool
  | .mrs t => decide (t < 32)
  | .msr t => decide (t < 32)

end Sys2Proof
end

