-- ==== Sys2Proof/Decode.lean ====
section
/-! DEFINITION. Decoding of bytes, total and rejecting by name (R32), and after it the encoder, both from the one format
`SYSREG` of R29 and the tuple of R27. The placement of the fields in the word is the spec's general knowledge G1 (D26, log 24). -/

namespace Sys2Proof

/-! ### The tuple of R27 and the fixed fields of R29 -/

/-- `op0` (R27). -/
def sysOp0 : BitVec 2 := 0b10
/-- `op1` (R27). -/
def sysOp1 : BitVec 3 := 0b001
/-- `CRn` (R27). -/
def sysCRn : BitVec 4 := 0b0011
/-- `CRm` (R27). -/
def sysCRm : BitVec 4 := 0b0011
/-- `op2` (R27). -/
def sysOp2 : BitVec 3 := 0b010
/-- Bits [31:22] of both words (R29). -/
def fixedHigh : BitVec 10 := 0b1101010100
/-- Bit [20] of both words (R29). -/
def fixed20 : BitVec 1 := 1
/-- Bit [19], `o0 = op0 - 2` (R29). -/
def fieldO0 : BitVec 1 := (sysOp0 - 2).setWidth 1
/-- Bit [21], `L`, of `MRS` (R29). -/
def lRead : BitVec 1 := 1
/-- Bit [21], `L`, of `MSR` (R29). -/
def lWrite : BitVec 1 := 0

/-- Why bytes are not an instruction of this hardware. -/
inductive DecodeError where
  /-- Fewer than the four bytes of a word (R31). -/
  | truncated
  /-- R32's third answer, "not this register". -/
  | notThisRegister (w : Word)
deriving DecidableEq, Repr

/-- Every field of R29 but `L` and `Rt` has the value of an access to `TRCVMIDCCTLR1`. -/
def namesRegister (w : Word) : Bool :=
  w.extractLsb' 22 10 == fixedHigh && w.extractLsb' 20 1 == fixed20 && w.extractLsb' 19 1 == fieldO0
    && w.extractLsb' 16 3 == sysOp1 && w.extractLsb' 12 4 == sysCRn && w.extractLsb' 8 4 == sysCRm
    && w.extractLsb' 5 3 == sysOp2

/-- `t = UInt(Rt)`, bits [4:0] (R30). -/
def fieldRt (w : Word) : Nat := (w.extractLsb' 0 5).toNat

/-- The three answers of R32 for one word. -/
def decodeWord (w : Word) : Except DecodeError Instr :=
  if namesRegister w then
    if w.extractLsb' 21 1 = lRead then .ok (.mrs (fieldRt w)) else .ok (.msr (fieldRt w))
  else .error (.notThisRegister w)

/-- The word held in four bytes, lowest address first: little-endian, PRESUMED (log 25). -/
def wordOfBytes (b0 b1 b2 b3 : Byte) : Word :=
  b0.setWidth 32 ||| (b1.setWidth 32 <<< 8) ||| (b2.setWidth 32 <<< 16) ||| (b3.setWidth 32 <<< 24)

/-- The four bytes of a word, lowest address first (log 25). -/
def bytesOfWord (w : Word) : List Byte :=
  [w.extractLsb' 0 8, w.extractLsb' 8 8, w.extractLsb' 16 8, w.extractLsb' 24 8]

/-- Decoding from the front of any bytes: the instruction and the bytes after it, or the reason there is none. -/
def decode : List Byte → Except DecodeError (Instr × List Byte)
  | b0 :: b1 :: b2 :: b3 :: rest =>
    match decodeWord (wordOfBytes b0 b1 b2 b3) with
    | .ok i => .ok (i, rest)
    | .error e => .error e
  | _ => .error .truncated

/-! ### The encoder -/

/-- The word of R29 with the two fields that vary. -/
def sysregWord (l : BitVec 1) (t : Nat) : Word :=
  fixedHigh ++ l ++ fixed20 ++ fieldO0 ++ sysOp1 ++ sysCRn ++ sysCRm ++ sysOp2 ++ BitVec.ofNat 5 t

/-- The word of an instruction (R29). -/
def encode : Instr → Word
  | .mrs t => sysregWord lRead t
  | .msr t => sysregWord lWrite t

/-- The bytes of an instruction as the instruction memory holds them (log 25). -/
def encodeBytes (i : Instr) : List Byte := bytesOfWord (encode i)

/-! ### The decoder on a row of the opcode table -/

/-- The instruction word whose low `nbits` bits are `w`'s and whose other bits are 0. -/
def tableWord (nbits w : Nat) : Word := BitVec.ofNat 32 (w % 2 ^ nbits)

/-- The decoder's answer on an instruction whose bits are `w`, numbered as spec/opcode_table.json numbers them. -/
def decodeTableWord (nbits w : Nat) : Option Instr :=
  match decode (bytesOfWord (tableWord nbits w)) with
  | .ok (i, _) => some i
  | .error _ => none

end Sys2Proof
end

