-- ==== Sys2Proof/Machine/Fetch.lean ====
section
/-! DEFINITION. Fetching and decoding the instruction at `pc`. The spec puts the fetch outside (R20, N22), so all of it is the
model's own (logs 25, 32); the answer to a word of the third kind is R32's. -/

namespace Sys2Proof.Machine

/-- The byte at an address of the 64-bit address space. DESIGN CHOICE (log 32): the fetch reads the memory as it is at this step,
so it sees every byte stored before; R26 and N22 say the source is silent on that. -/
def fetchByte (s : State) (a : Reg) : Option Byte := s.mem.read a.toNat

/-- The four bytes at `pc`, addresses modulo 2^64, or none where one was never written. -/
def fetchBytes (s : State) : Option (List Byte) :=
  match fetchByte s s.pc, fetchByte s (s.pc + 1), fetchByte s (s.pc + 2), fetchByte s (s.pc + 3) with
  | some b0, some b1, some b2, some b3 => some [b0, b1, b2, b3]
  | _, _, _, _ => none

/-- The instruction at `pc`: refused by name where the word is not an access to this register (R32, D17). -/
def fetchInstr (s : State) : Host.Outcome Instr Fault Refusal :=
  match fetchBytes s with
  | none => .fault .instructionUnavailable
  | some bs =>
    match decode bs with
    | .ok (i, _) => .next i
    | .error (.notThisRegister w) => .refused (.notThisRegister w)
    | .error .truncated => .fault .instructionUnavailable

/-- The PE moves next (log 20). -/
def peMovesNext (s : State) : Bool :=
  match s.agenda with
  | [] => true
  | .pe :: _ => true
  | .event _ :: _ => false

/-- Places bytes where the next step fetches: at `pc`; turns of other agents that would come first are dropped (log 26). -/
def placeBytes (s : State) (bs : List Byte) : State :=
  { s with
    mem := s.mem.writeBytes s.pc bs
    agenda := if peMovesNext s then s.agenda else [] }

end Sys2Proof.Machine
end

