-- ==== Sys2Proof/Machine/Step.lean ====
section
/-! DEFINITION. One step of the machine: the agenda says who moves (log 20). -/

namespace Sys2Proof.Machine

/-- The PE's turn: the instruction at `pc` is executed. -/
def stepPe (s : State) : Host.Outcome State Fault Refusal :=
  match fetchInstr s with
  | .next i => exec i s
  | .fault f => .fault f
  | .refused r => .refused r

/-- One turn, of the PE or of another agent. -/
def runTurn (t : Turn) (s : State) : Host.Outcome State Fault Refusal :=
  match t with
  | .pe => stepPe s
  | .event e => runEvent e s

/-- One step: the first turn of the agenda, taken off it; with an empty agenda the PE moves. -/
def step (s : State) : Host.Outcome State Fault Refusal :=
  match s.agenda with
  | [] => stepPe s
  | t :: rest => runTurn t { s with agenda := rest }

/-- `s` with the instruction whose bits are `w` (numbered as the opcode table numbers them, the bits above `nbits` zero) placed
where the next step fetches (logs 25, 26). -/
def State.withFetchWord (s : State) (nbits w : Nat) : State :=
  placeBytes s (bytesOfWord (tableWord nbits w))

end Sys2Proof.Machine
end

