-- ==== Sys2Proof/Safety.lean ====
section
/-! DEFINITION. The invariant of the machine, the duties of software (R65) and the premises a claim may name (R22, R50). -/

namespace Sys2Proof.Safety

open Sys2Proof.Machine

/-- What every step keeps: the instruction memory is in canonical form; no bit of the register outside `WritableMask` is held
(R5, R7, R8); a register that is not present holds no state (R3); an absent comparator has no output (R41). -/
structure Inv (s : State) : Prop where
  memoryCanonical : s.mem.wf
  reservedClear : s.trcvmidcctlr1 &&& ~~~writableMask s.cfg = 0#64
  absentRegister : present s.cfg = false → s.trcvmidcctlr1 = 0#64
  absentComparator : ∀ n, comparatorPresent s.cfg n = false → s.vmidMatch.get n = none

/-- The relations R50 lets a model assume if it names them (D21, log 31): EL3 is only reached where it is implemented, code at
EL1 is AArch64, and the priority predicate implies the other. -/
structure InputsConsistent (s : State) : Prop where
  el3Implemented : s.el = .el3 → s.cfg.haveEl3 = true
  el1IsAArch64 : s.el = .el1 → s.predicates.el1IsA32 = false
  prioImpliesUndef : s.predicates.sddPrio = true → s.predicates.sddUndef = true

/-- No external write is scheduled: the premise of R22 choice (b) (D15, log 21). -/
def noExternalWrite (agenda : List Turn) : Bool :=
  agenda.all fun t => match t with
    | .event (.externalWrite _) => false
    | .event _ => true
    | .pe => true

/-- The two duties of R65 on the state at a comparison: the mask was programmed, while Idle (R37, R47), and every masked byte of
every implemented comparator is `0x00` (R38). -/
def comparisonDuties (s : State) : Prop :=
  s.maskOrigin = .written ∧ ∀ n, comparatorPresent s.cfg n = true → maskWellFormed s n = true

/-- The duty of R65 on the state at a write: the trace unit is Idle (R47). -/
def writeDuty (s : State) : Prop := s.idle = true

end Sys2Proof.Safety
end

