-- ==== Sys2Proof/Certificates/Slice0/Obligations.lean ====
section
/-! DEFINITION. The statements for the provers, and the conditions they are written with. The conditions are written from the
decision table of 41_mrs_msr_access.md section 6 and from 60_exceptions.md, not from the definitions of Machine/Access.lean. -/

namespace Sys2Proof.Claims

open Sys2Proof.Machine

/-- The access of a direction: `MRS` reads, `MSR` writes. -/
def accessOf (d : Direction) (t : Nat) : Instr :=
  match d with
  | .read => .mrs t
  | .write => .msr t

/-- `HX` of the decision table: `HDFGRTR_EL2.TRC` for `MRS`, `HDFGWTR_EL2.TRC` for `MSR`. -/
def hx (d : Direction) (s : State) : Bool :=
  match d with
  | .read => s.controls.hdfgrtrEl2Trc
  | .write => s.controls.hdfgwtrEl2Trc

/-- `HaltCond` of the decision table. -/
def HaltCond (s : State) : Prop :=
  s.cfg.featTrbeExt = true ∧ s.controls.oslsrEl1Oslk = false ∧ s.predicates.haltingAllowed = true
    ∧ s.controls.edscr2Tta = true

/-- `HaveEL3 and T3 = 1`. -/
def El3Trap (s : State) : Prop := s.cfg.haveEl3 = true ∧ s.controls.cptrEl3Tta = true

/-- `HaveEL3 and SDDPrio and T3 = 1`. -/
def PrioUndef (s : State) : Prop :=
  s.cfg.haveEl3 = true ∧ s.predicates.sddPrio = true ∧ s.controls.cptrEl3Tta = true

/-- `EL2Enabled and T2 = 1`. -/
def CoarseEl2Trap (s : State) : Prop := s.predicates.el2Enabled = true ∧ s.controls.cptrEl2Tta = true

/-- `EL2Enabled and FEAT_FGT and (not HaveEL3 or FG = 1) and HX = 1`. -/
def FineGrained (d : Direction) (s : State) : Prop :=
  s.predicates.el2Enabled = true ∧ s.cfg.featFgt = true ∧ (s.cfg.haveEl3 = false ∨ s.controls.scrEl3Fgten = true)
    ∧ hx d s = true

/-- No trap to EL1 or EL2 applies to an access from EL1. -/
def NoLowerTrapAtEl1 (d : Direction) (s : State) : Prop :=
  s.controls.cpacrEl1Tta = false ∧ ¬ CoarseEl2Trap s ∧ ¬ FineGrained d s

/-- The access reaches its assignment: the rows "access completes" of the decision table, written out. -/
def Permitted (d : Direction) (s : State) : Prop :=
  present s.cfg = true ∧
    ((s.el = .el1 ∧ NoLowerTrapAtEl1 d s ∧ ¬ El3Trap s ∧ ¬ HaltCond s) ∨
     (s.el = .el2 ∧ s.controls.cptrEl2Tta = false ∧ ¬ El3Trap s ∧ ¬ (s.predicates.el1IsA32 = false ∧ HaltCond s)) ∨
     (s.el = .el3 ∧ s.controls.cptrEl3Tta = false ∧ ¬ (s.predicates.el1IsA32 = false ∧ HaltCond s)))

/-- The order of R56, items 1 to 8, as one list of (condition, outcome); the first that holds decides. -/
def priorityList (d : Direction) (s : State) : List (Bool × Fault) :=
  let el1 := decide (s.el = .el1)
  let el2 := decide (s.el = .el2)
  let el3 := decide (s.el = .el3)
  let t3 := s.cfg.haveEl3 && s.controls.cptrEl3Tta
  let halt := s.cfg.featTrbeExt && !s.controls.oslsrEl1Oslk && s.predicates.haltingAllowed && s.controls.edscr2Tta
  [ (!present s.cfg, .undefined),
    (decide (s.el = .el0), .undefined),
    ((el1 || el2) && s.predicates.sddPrio && t3, .undefined),
    (el1 && s.controls.cpacrEl1Tta, .systemAccessTrap .el1 0x18),
    (((el1 && s.predicates.el2Enabled) || el2) && s.controls.cptrEl2Tta, .systemAccessTrap .el2 0x18),
    (el1 && s.predicates.el2Enabled && s.cfg.featFgt && (!s.cfg.haveEl3 || s.controls.scrEl3Fgten) && hx d s,
      .systemAccessTrap .el2 0x18),
    ((el1 || el2) && t3 && s.predicates.sddUndef, .undefined),
    ((el1 || el2) && t3, .systemAccessTrap .el3 0x18),
    (el3 && s.controls.cptrEl3Tta, .systemAccessTrap .el3 0x18),
    ((el1 || ((el2 || el3) && !s.predicates.el1IsA32)) && halt, .halt .softwareAccess) ]

/-- The first abnormal outcome of the priority order, if any. -/
def firstOutcome (d : Direction) (s : State) : Option Fault :=
  ((priorityList d s).find? fun r => r.1).map fun r => r.2

/-- The order of the Exception levels, EL0 lowest (00_scope.md glossary). -/
def levelRank : ExceptionLevel → Nat
  | .el0 => 0
  | .el1 => 1
  | .el2 => 2
  | .el3 => 3

/-- The inputs of the procedures and the parameters are the same in both states. -/
structure SameInputs (s s' : State) : Prop where
  cfg : s'.cfg = s.cfg
  el : s'.el = s.el
  controls : s'.controls = s.controls
  predicates : s'.predicates = s.predicates
  trcvmidcvr : s'.trcvmidcvr = s.trcvmidcvr
  vcid : s'.vcid = s.vcid
  idle : s'.idle = s.idle

/-- The bit of a RES0 position a read returns under `RES0_READ` (R5): zero, or the bit of a free value. -/
def res0Bit (s : State) (i : Nat) : Bool :=
  match s.cfg.res0Read with
  | .zero => false
  | .draw => (Config.freeWord s.draws).getLsbD i

/-- `COMPn[m]` as the comparator reads it. -/
def maskBit (s : State) (n : Comparator) (m : Nat) : Bool :=
  s.trcvmidcctlr1.getLsbD (8 * (comparatorNumber n - 4) + m)
    && (writableMask s.cfg).getLsbD (8 * (comparatorNumber n - 4) + m)

/-- The rule of R35 applies to comparator `n`: its own mask is well formed (R38), and no write made while not Idle left it a draw
(R47). Whether software wrote the mask at all does not matter (R37). -/
def MatchDefined (s : State) (n : Comparator) : Prop :=
  s.maskOrigin ≠ .unpredictable ∧
    ∀ m < 8, maskBit s n m = true → ∀ j < 8, (s.trcvmidcvr.get n).getLsbD (8 * m + j) = false

/-- The events that only change an input of the procedures, of the trace unit or of the fetch. -/
def isInput (e : Event) : Bool :=
  match e with
  | .compare _ => false
  | .externalRead => false
  | .externalWrite _ => false
  | .powerEvent => false
  | .setLevel _ => true
  | .setControl _ _ => true
  | .setPredicate _ _ => true
  | .setIdle _ => true
  | .setValueRegister _ _ => true
  | .setVcid _ => true
  | .setGpr _ _ => true
  | .setPc _ => true
  | .storeByte _ _ => true

end Sys2Proof.Claims

open Sys2Proof Sys2Proof.Machine Sys2Proof.Claims

/-! ### Encoding -/

/-- 30_encoding.md section 3 (word layout: general knowledge G1, D26; byte order: log 25). The bytes of every well-formed
instruction, followed by any bytes, decode to it and leave the rest. -/
def Obligations.DecodeOfEncode : Prop :=
  ∀ (i : Instr) (rest : List Byte), i.wellFormed = true → decode (encodeBytes i ++ rest) = .ok (i, rest)

/-- 30_encoding.md sections 3 and 4 (G1, D17, D26; log 25). Bytes that decode are the bytes of the instruction they decode to,
which is well-formed: no other bytes are an access to this register. -/
def Obligations.DecodedBytesAreTheEncoding : Prop :=
  ∀ (bs : List Byte) (i : Instr) (rest : List Byte),
    decode bs = .ok (i, rest) → i.wellFormed = true ∧ bs = encodeBytes i ++ rest

/-- 30_encoding.md section 5 (G1, D17, D26). The field-by-field decoder is the match and mask of the opcode map, and every other
word is refused by name. -/
def Obligations.DecodeByMatchAndMask : Prop :=
  ∀ w : Word, decodeWord w =
    if w &&& 0xFFFFFFE0#32 = 0xD5313340#32 then .ok (.mrs (w &&& 0x1F#32).toNat)
    else if w &&& 0xFFFFFFE0#32 = 0xD5113340#32 then .ok (.msr (w &&& 0x1F#32).toNat)
    else .error (.notThisRegister w)

/-- Vectors E3, E4, E7, E8, E9, E10, E14, E16 of 95_test_vectors.md section 2.1 (words rest on G1, D26). -/
def Obligations.SpecWordsDecode : Prop :=
  decodeWord 0xD531335E = .ok (.mrs 30) ∧ decodeWord 0xD531335F = .ok (.mrs 31)
    ∧ decodeWord 0xD511335F = .ok (.msr 31) ∧ decodeWord 0xD5313347 = .ok (.mrs 7)
    ∧ decodeWord 0xD5113347 = .ok (.msr 7)
    ∧ decodeWord 0xD5313367 = .error (.notThisRegister 0xD5313367)
    ∧ decodeWord 0xD5393347 = .error (.notThisRegister 0xD5393347)
    ∧ decodeWord 0x00000000 = .error (.notThisRegister 0x00000000)

/-! ### Presence, layout and the writable bits -/

/-- 10_state.md Part 1, Presence (D8: the parameters are constant). `Present` is the conjunction of the four conditions; without it every access is UNDEFINED and the register holds no state
(nothing in it, and no step puts anything there); no step changes it. -/
def Obligations.PresenceIsFixed : Prop :=
  (∀ c : Config, present c = true ↔
    c.featEte = true ∧ c.sysRegTrace = true ∧ c.numVmidc > 4 ∧ c.vmidSize > 0) ∧
  (∀ (d : Direction) (t : Nat) (s : State), present s.cfg = false →
    exec (accessOf d t) s = .fault .undefined) ∧
  (∀ s : State, Safety.Inv s → present s.cfg = false → s.trcvmidcctlr1 = 0#64) ∧
  (∀ s s' : State, step s = .next s' →
    present s'.cfg = present s.cfg ∧ (present s.cfg = false → s'.trcvmidcctlr1 = s.trcvmidcctlr1))

/-- 10_state.md, the definition of `WritableMask` (general knowledge G8, G9; D2, D3): which bits are read/write, bit by bit. -/
def Obligations.WritableMaskBits : Prop :=
  ∀ (c : Config) (i : Nat), (writableMask c).getLsbD i =
    match c.maskReading with
    | .implemented => decide (i < 32 ∧ c.numVmidc > 4 + i / 8 ∧ i % 8 < c.vmidSize)
    | .sourceOnly => decide (i < 32)

/-- R4, with a RES0 bit read as 0 (40_comparator_mask.md, first paragraphs): `COMPn[m]` is register bit `8*(n-4) + m`. -/
def Obligations.FieldLayout : Prop :=
  ∀ (s : State) (n : Comparator) (m : Nat), m < 8 →
    (comp s n).getLsbD m = maskBit s n m ∧
    (s.cfg.maskReading = .sourceOnly →
      (comp s n).getLsbD m = s.trcvmidcctlr1.getLsbD (8 * (comparatorNumber n - 4) + m))

/-- R4. The 64 bits are 32 mask bits and 32 reserved ones: each of bits [31:0] is one `COMPn[m]` and no other; the comparator reads
`COMPn[m]` from register bit `8*(n-4) + m`, for each mask bit the machine has (in a machine that has all 32, every one); bits [63:32]
are no mask bits and belong to no field. -/
def Obligations.BitLayout : Prop :=
  (∀ i < 32, ∃! p : Comparator × Nat, p.2 < 8 ∧ 8 * (comparatorNumber p.1 - 4) + p.2 = i) ∧
  (∀ (s : State) (n : Comparator) (m : Nat), m < 8 →
    (writableMask s.cfg).getLsbD (8 * (comparatorNumber n - 4) + m) = true →
    (comp s n).getLsbD m = s.trcvmidcctlr1.getLsbD (8 * (comparatorNumber n - 4) + m)) ∧
  (∀ (c : Config) (i : Nat), 32 ≤ i → (writableMask c).getLsbD i = false) ∧
  (∀ (s : State) (n : Comparator) (r : Reg), (∀ i < 32, r.getLsbD i = s.trcvmidcctlr1.getLsbD i) →
    comp { s with trcvmidcctlr1 := r } n = comp s n)

/-! ### The access procedures -/

/-- 41_mrs_msr_access.md section 1 (its rank before every trap: D18, log 15; what UNDEFINED is here: D5, log 13). A register that is not present makes both
accesses UNDEFINED, whatever the level and the controls. -/
def Obligations.AbsentRegisterIsUndefined : Prop :=
  ∀ (s : State) (t : Nat), present s.cfg = false →
    exec (.mrs t) s = .fault .undefined ∧ exec (.msr t) s = .fault .undefined

/-- 60_exceptions.md section 1, causes (a) to (d): exactly these make an access `Undefined` (cause (a) before the traps: D18, log 15; the fault: D5,
log 13). -/
def Obligations.UndefinedExactlyWhen : Prop :=
  ∀ (d : Direction) (t : Nat) (s : State), exec (accessOf d t) s = .fault .undefined ↔
    (present s.cfg = false ∨ s.el = .el0 ∨
     ((s.el = .el1 ∨ s.el = .el2) ∧ PrioUndef s) ∨
     (s.el = .el1 ∧ NoLowerTrapAtEl1 d s ∧ El3Trap s ∧ s.predicates.sddUndef = true) ∨
     (s.el = .el2 ∧ s.controls.cptrEl2Tta = false ∧ El3Trap s ∧ s.predicates.sddUndef = true))

/-- 60_exceptions.md section 1: which control traps where, the code `0x18` in every trap, and the target never lower than
`PSTATE.EL` (derived there from the procedures); the fault with both arguments: D6, log 14; presence first: D18, log 15. -/
def Obligations.TrapTargets : Prop :=
  ∀ (d : Direction) (t : Nat) (s : State) (code : Nat),
    (exec (accessOf d t) s = .fault (.systemAccessTrap .el1 code) ↔
      code = 0x18 ∧ present s.cfg = true ∧ s.el = .el1 ∧ ¬ PrioUndef s ∧ s.controls.cpacrEl1Tta = true) ∧
    (exec (accessOf d t) s = .fault (.systemAccessTrap .el2 code) ↔
      code = 0x18 ∧ present s.cfg = true ∧ ¬ PrioUndef s ∧
      ((s.el = .el1 ∧ s.controls.cpacrEl1Tta = false ∧ (CoarseEl2Trap s ∨ FineGrained d s)) ∨
       (s.el = .el2 ∧ s.controls.cptrEl2Tta = true))) ∧
    (exec (accessOf d t) s = .fault (.systemAccessTrap .el3 code) ↔
      code = 0x18 ∧ present s.cfg = true ∧
      ((s.el = .el1 ∧ ¬ PrioUndef s ∧ NoLowerTrapAtEl1 d s ∧ El3Trap s ∧ s.predicates.sddUndef = false) ∨
       (s.el = .el2 ∧ ¬ PrioUndef s ∧ s.controls.cptrEl2Tta = false ∧ El3Trap s ∧ s.predicates.sddUndef = false) ∨
       (s.el = .el3 ∧ s.controls.cptrEl3Tta = true))) ∧
    (∀ target, exec (accessOf d t) s = .fault (.systemAccessTrap target code) →
      target ≠ .el0 ∧ code = 0x18 ∧ levelRank s.el ≤ levelRank target)

/-- 60_exceptions.md section 1: exactly when an access halts (the fault with its reason: D7, log 14; presence first: D18,
log 15). -/
def Obligations.HaltExactlyWhen : Prop :=
  ∀ (d : Direction) (t : Nat) (s : State), exec (accessOf d t) s = .fault (.halt .softwareAccess) ↔
    present s.cfg = true ∧ HaltCond s ∧
      ((s.el = .el1 ∧ NoLowerTrapAtEl1 d s ∧ ¬ El3Trap s) ∨
       (s.el = .el2 ∧ s.controls.cptrEl2Tta = false ∧ ¬ El3Trap s ∧ s.predicates.el1IsA32 = false) ∨
       (s.el = .el3 ∧ s.controls.cptrEl3Tta = false ∧ s.predicates.el1IsA32 = false))

/-- 60_exceptions.md section 2 (item 1's place: D18, log 15; the outcomes' form: D5 to D7, logs 13, 14; item 9 for a write while not
Idle: D11, log 16): the first condition of the one priority order decides; with none, the access reaches its assignment, where only a
write while not Idle, in a machine of treatment (1) of R47, is refused. -/
def Obligations.PriorityOrder : Prop :=
  ∀ (d : Direction) (t : Nat) (s : State),
    (∀ f, firstOutcome d s = some f → exec (accessOf d t) s = .fault f) ∧
    (firstOutcome d s = none →
      (d = .read ∨ s.idle = true ∨ s.cfg.nonIdleWrite = .draw → ∃ s', exec (accessOf d t) s = .next s') ∧
      (d = .write ∧ s.idle = false ∧ s.cfg.nonIdleWrite = .refuse →
        exec (accessOf d t) s = .refused .writeWhileNotIdle))

/-- 60_exceptions.md section 1: an access completes or has one of five abnormal outcomes; a write that passes every check while not Idle stands apart
(R47). -/
def Obligations.OutcomesOfAnAccess : Prop :=
  ∀ (d : Direction) (t : Nat) (s : State),
    (∃ s', exec (accessOf d t) s = .next s' ∧ s'.pc = s.pc + 4#64) ∨
    (∃ f ∈ [Fault.undefined, .systemAccessTrap .el1 0x18, .systemAccessTrap .el2 0x18, .systemAccessTrap .el3 0x18,
      .halt .softwareAccess], exec (accessOf d t) s = .fault f) ∨
    (d = .write ∧ Permitted d s ∧ s.idle = false ∧ s.cfg.nonIdleWrite = .refuse ∧
      exec (accessOf d t) s = .refused .writeWhileNotIdle)

/-- 60_exceptions.md section 3: at EL0 no access ever completes; above it an access completes exactly when it is not trapped, made UNDEFINED or halted
(for a write while not Idle: in a machine of treatment (2) of R47). -/
def Obligations.AccessCompletesExactlyWhen : Prop :=
  (∀ (t : Nat) (s : State), (∃ s', exec (.mrs t) s = .next s') ↔ Permitted .read s) ∧
  (∀ (t : Nat) (s : State), (∃ s', exec (.msr t) s = .next s') ↔
    Permitted .write s ∧ (s.idle = true ∨ s.cfg.nonIdleWrite = .draw)) ∧
  (∀ (d : Direction) (t : Nat) (s : State), s.el = .el0 → exec (accessOf d t) s = .fault .undefined)

/-- 60_exceptions.md section 5 (2): with `OSLSR_EL1.OSLK = 1` no access is halted, and `EDSCR2.TTA` has no influence on whether
it faults. -/
def Obligations.OsLockPreventsHalt : Prop :=
  ∀ (d : Direction) (t : Nat) (s : State), s.controls.oslsrEl1Oslk = true →
    exec (accessOf d t) s ≠ .fault (.halt .softwareAccess) ∧
    (∀ (b : Bool) (f : Fault),
      exec (accessOf d t) { s with controls := s.controls.set .edscr2Tta b } = .fault f ↔
        exec (accessOf d t) s = .fault f)

/-- Vectors A8, A9 and 60_exceptions.md section 3: the read and the write fine-grained traps are separate. -/
def Obligations.FineGrainedTrapsAreSeparate : Prop :=
  ∀ (t : Nat) (s : State) (b : Bool) (f : Fault),
    (exec (.mrs t) { s with controls := s.controls.set .hdfgwtrEl2Trc b } = .fault f ↔ exec (.mrs t) s = .fault f) ∧
    (exec (.msr t) { s with controls := s.controls.set .hdfgrtrEl2Trc b } = .fault f ↔ exec (.msr t) s = .fault f)

/-- Vectors A29, A34 and 60_exceptions.md section 3: at EL3 no control owned by EL1 or EL2 and no fine-grained enable has any
influence on whether an access faults; at EL2 the EL1 and fine-grained controls have none. -/
def Obligations.LowerControlsHaveNoInfluence : Prop :=
  ∀ (d : Direction) (t : Nat) (s : State) (f : Fault) (c : Controls) (e : Bool),
    c.cptrEl3Tta = s.controls.cptrEl3Tta → c.oslsrEl1Oslk = s.controls.oslsrEl1Oslk →
    c.edscr2Tta = s.controls.edscr2Tta →
    (s.el = .el3 ∨ (s.el = .el2 ∧ c.cptrEl2Tta = s.controls.cptrEl2Tta)) →
    (exec (accessOf d t) { s with controls := c, predicates := s.predicates.set .el2Enabled e } = .fault f ↔
      exec (accessOf d t) s = .fault f)

/-- Conflict C3 and the relations among the inputs (41_mrs_msr_access.md section 5): under the named relations the Halt condition
is the same at EL1 as at EL2 and EL3, so a halted access always finds EL1 in AArch64. -/
def Obligations.HaltTermRedundantAtEl1 : Prop :=
  ∀ (d : Direction) (t : Nat) (s : State), Safety.InputsConsistent s →
    exec (accessOf d t) s = .fault (.halt .softwareAccess) → s.predicates.el1IsA32 = false

/-! ### The data moved -/

/-- R43's completing branch with `ReadValue()` of 41_mrs_msr_access.md section 4 (D1; RES0 bits: log 2; t = 31: D12, log 5; pc: D13,
log 6): `MRS` completes for every permitted state and every `t`; each bit of `x[t]` is the stored bit where `WritableMask` is 1
and `RES0_READ` elsewhere; `t = 31` discards; nothing else changes but the pc and the model's counter of free values. -/
def Obligations.MrsCompletes : Prop :=
  ∀ (s : State) (t : Nat), t < 32 → Permitted .read s →
    ∃ s', exec (.mrs t) s = .next s' ∧
      (t < 31 → ∀ i < 64, (readX s' t).getLsbD i =
        if (writableMask s.cfg).getLsbD i then s.trcvmidcctlr1.getLsbD i else res0Bit s i) ∧
      (t = 31 → s'.x = s.x) ∧
      (∀ u, u ≠ t → readX s' u = readX s u) ∧
      s' = { s with x := s'.x, pc := s.pc + 4#64, draws := s.draws + 1 }

/-- R44's completing branch with `WriteValue` of 41_mrs_msr_access.md section 4 (D1; t = 31: D12, log 5; pc: D13, log 6): while the
trace unit is Idle `MSR` completes; every writable bit becomes the bit of `x[t]` (zero for `t = 31`), every other bit is kept,
and nothing else changes but the pc and the model's record that the mask was written. -/
def Obligations.MsrCompletesWhileIdle : Prop :=
  ∀ (s : State) (t : Nat), t < 32 → Permitted .write s → s.idle = true →
    ∃ s', exec (.msr t) s = .next s' ∧
      (∀ i < 64, s'.trcvmidcctlr1.getLsbD i =
        if (writableMask s.cfg).getLsbD i then (t != 31 && (readX s t).getLsbD i) else s.trcvmidcctlr1.getLsbD i) ∧
      s' = { s with trcvmidcctlr1 := s'.trcvmidcctlr1, maskOrigin := .written, pc := s.pc + 4#64 }

/-- 41_mrs_msr_access.md section 4, the write while not Idle, treatment (2) (D11, log 16): every writable bit becomes a bit of a
free value, the outputs of the implemented comparators become free bits, and nothing else changes. -/
def Obligations.MsrWhileNotIdleDraws : Prop :=
  ∀ (s : State) (t : Nat), Permitted .write s → s.idle = false → s.cfg.nonIdleWrite = .draw →
    ∃ s', exec (.msr t) s = .next s' ∧
      (∀ i < 64, s'.trcvmidcctlr1.getLsbD i =
        if (writableMask s.cfg).getLsbD i then (Config.freeWord s.draws).getLsbD i
        else s.trcvmidcctlr1.getLsbD i) ∧
      (∀ n, s'.vmidMatch.get n =
        if comparatorPresent s.cfg n then some (Config.freeBit (s.draws + (comparatorNumber n - 4))) else none) ∧
      s' = { s with trcvmidcctlr1 := s'.trcvmidcctlr1, vmidMatch := s'.vmidMatch, maskOrigin := .unpredictable,
                    pc := s.pc + 4#64, draws := s.draws + 4 }

/-- 41_mrs_msr_access.md section 4, the write while not Idle, treatment (1) (D11, log 16): in a machine whose parameter asks for
it, the write is refused by name, through `MSR` and through the external view alike; reads are not restricted. -/
def Obligations.WriteWhileNotIdleRefused : Prop :=
  ∀ (s : State) (t : Nat) (v : BitVec 32), s.idle = false → s.cfg.nonIdleWrite = .refuse →
    (Permitted .write s → exec (.msr t) s = .refused .writeWhileNotIdle) ∧
    (present s.cfg = true → runEvent (.externalWrite v) s = .refused .writeWhileNotIdle) ∧
    (Permitted .read s → ∃ s', exec (.mrs t) s = .next s')

/-- 41_mrs_msr_access.md section 4, last sentence on the Idle rule: reads are not restricted by the trace unit's state. -/
def Obligations.ReadsIgnoreIdle : Prop :=
  ∀ (s s' : State) (t : Nat) (b : Bool), exec (.mrs t) s = .next s' →
    exec (.mrs t) { s with idle := b } = .next { s' with idle := b }

/-- 10_state.md, no other state (frame of `MRS`): it changes `x[t]` and the pc only; no input, no bit of the register, no output,
no byte of memory. -/
def Obligations.MrsFrame : Prop :=
  ∀ (t : Nat) (s s' : State), exec (.mrs t) s = .next s' →
    SameInputs s s' ∧ s'.trcvmidcctlr1 = s.trcvmidcctlr1 ∧ s'.maskOrigin = s.maskOrigin ∧
    s'.vmidMatch = s.vmidMatch ∧ s'.externalData = s.externalData ∧ s'.agenda = s.agenda ∧
    (∀ u, u ≠ t → readX s' u = readX s u) ∧ (t = 31 → s'.x = s.x) ∧
    (∀ a, s'.mem.read a = s.mem.read a)

/-- 10_state.md, no other state (frame of `MSR`): it changes writable bits of the register and the pc only, and, while not Idle,
the outputs of implemented comparators; no general-purpose register, no input, no byte of memory. -/
def Obligations.MsrFrame : Prop :=
  ∀ (t : Nat) (s s' : State), exec (.msr t) s = .next s' →
    SameInputs s s' ∧ s'.x = s.x ∧ s'.externalData = s.externalData ∧ s'.agenda = s.agenda ∧
    (∀ i < 64, (writableMask s.cfg).getLsbD i = false → s'.trcvmidcctlr1.getLsbD i = s.trcvmidcctlr1.getLsbD i) ∧
    (s.idle = true → s'.vmidMatch = s.vmidMatch ∧ s'.draws = s.draws) ∧
    (∀ a, s'.mem.read a = s.mem.read a)

/-- 20_memory.md section 1, last rule: the accesses perform no memory access, so whatever the memory holds has no influence on
them and they have none on it. -/
def Obligations.AccessesIgnoreMemory : Prop :=
  ∀ (d : Direction) (t : Nat) (s : State) (m : Memory),
    (∀ f, exec (accessOf d t) s = .fault f → exec (accessOf d t) { s with mem := m } = .fault f) ∧
    (∀ s', exec (accessOf d t) s = .next s' → exec (accessOf d t) { s with mem := m } = .next { s' with mem := m })

/-- 20_memory.md section 5 item 1 (D14, log 22): an `MRS` after an `MSR`, with no write between, returns in every writable bit the
value the `MSR` wrote. -/
def Obligations.MrsAfterMsrReturnsTheValue : Prop :=
  ∀ (s s1 s2 : State) (t u : Nat), s.idle = true → u < 31 →
    exec (.msr t) s = .next s1 → exec (.mrs u) s1 = .next s2 →
    ∀ i < 64, (writableMask s.cfg).getLsbD i = true → (readX s2 u).getLsbD i = (readX s t).getLsbD i

/-- 20_memory.md section 4: writing the same value twice equals writing it once, but for the pc. -/
def Obligations.SameWriteTwice : Prop :=
  ∀ (s s1 s2 : State) (t : Nat), s.idle = true →
    exec (.msr t) s = .next s1 → exec (.msr t) s1 = .next s2 → s2 = { s1 with pc := s1.pc + 4#64 }

/-! ### The external view -/

/-- 10_state.md, the external view (D15, log 21): a value written through either view is the value read through the other, in the
writable bits. -/
def Obligations.OneStorageTwoViews : Prop :=
  (∀ (s s1 s2 : State) (v : BitVec 32) (t : Nat), s.idle = true → t < 31 →
    runEvent (.externalWrite v) s = .next s1 → exec (.mrs t) s1 = .next s2 →
    ∀ i < 32, (writableMask s.cfg).getLsbD i = true → (readX s2 t).getLsbD i = v.getLsbD i) ∧
  (∀ (s s1 s2 : State) (t : Nat), s.idle = true →
    exec (.msr t) s = .next s1 → runEvent .externalRead s1 = .next s2 →
    ∃ r, s2.externalData = some r ∧
      ∀ i < 32, (writableMask s.cfg).getLsbD i = true → r.getLsbD i = (readX s t).getLsbD i)

/-- 10_state.md, the external view, and 20_memory.md sections 3 and 4 (D15, log 21; RES0 bits: D1, log 2): an external read of a
present register completes, gives each bit of [31:0] as `MRS` would, and changes nothing but what the external agent holds and the
model's counter of free values. -/
def Obligations.ExternalReadReturns : Prop :=
  ∀ s : State, present s.cfg = true →
    ∃ s' r, runEvent .externalRead s = .next s' ∧ s'.externalData = some r ∧
      (∀ i < 32, r.getLsbD i =
        if (writableMask s.cfg).getLsbD i then s.trcvmidcctlr1.getLsbD i else res0Bit s i) ∧
      s' = { s with externalData := some r, draws := s.draws + 1 }

/-- 20_memory.md section 3 choice (a) (D15, log 21): an external write of a present register while Idle completes; every writable
bit becomes the written bit, every other bit is kept, and nothing else changes but the model's record that the mask was
written. -/
def Obligations.ExternalWriteWhileIdle : Prop :=
  ∀ (s : State) (v : BitVec 32), present s.cfg = true → s.idle = true →
    ∃ s', runEvent (.externalWrite v) s = .next s' ∧
      (∀ i < 64, s'.trcvmidcctlr1.getLsbD i =
        if (writableMask s.cfg).getLsbD i then v.getLsbD i else s.trcvmidcctlr1.getLsbD i) ∧
      s' = { s with trcvmidcctlr1 := s'.trcvmidcctlr1, maskOrigin := .written }

/-- 41_mrs_msr_access.md section 4, the write while not Idle, treatment (2), through the external view (D11, log 16; D15, log 21):
every writable bit becomes a bit of a free value, the outputs of the implemented comparators become free bits, and nothing else
changes. -/
def Obligations.ExternalWriteWhileNotIdleDraws : Prop :=
  ∀ (s : State) (v : BitVec 32), present s.cfg = true → s.idle = false → s.cfg.nonIdleWrite = .draw →
    ∃ s', runEvent (.externalWrite v) s = .next s' ∧
      (∀ i < 64, s'.trcvmidcctlr1.getLsbD i =
        if (writableMask s.cfg).getLsbD i then (Config.freeWord s.draws).getLsbD i
        else s.trcvmidcctlr1.getLsbD i) ∧
      (∀ n, s'.vmidMatch.get n =
        if comparatorPresent s.cfg n then some (Config.freeBit (s.draws + (comparatorNumber n - 4))) else none) ∧
      s' = { s with trcvmidcctlr1 := s'.trcvmidcctlr1, vmidMatch := s'.vmidMatch, maskOrigin := .unpredictable,
                    draws := s.draws + 4 }

/-- 20_memory.md section 5, two writers (D15): the register holds the value of whichever write came last, in either order. -/
def Obligations.LastWriterWins : Prop :=
  ∀ (s s1 s2 : State) (v : BitVec 32) (t : Nat), s.idle = true →
    (exec (.msr t) s = .next s1 → runEvent (.externalWrite v) s1 = .next s2 →
      ∀ i < 64, (writableMask s.cfg).getLsbD i = true → s2.trcvmidcctlr1.getLsbD i = v.getLsbD i) ∧
    (runEvent (.externalWrite v) s = .next s1 → exec (.msr t) s1 = .next s2 →
      ∀ i < 64, (writableMask s.cfg).getLsbD i = true → s2.trcvmidcctlr1.getLsbD i = (readX s t).getLsbD i)

/-- 60_exceptions.md section 5, power (D24, log 23): after a power event every writable bit of a present register is a bit of a free
value, whatever it held, every other bit is kept, and nothing else of the machine changes. -/
def Obligations.PowerEventUnspecifiesTheMask : Prop :=
  ∀ s : State, present s.cfg = true →
    ∃ s', runEvent .powerEvent s = .next s' ∧
      (∀ i < 64, s'.trcvmidcctlr1.getLsbD i =
        if (writableMask s.cfg).getLsbD i then (Config.freeWord s.draws).getLsbD i
        else s.trcvmidcctlr1.getLsbD i) ∧
      s'.maskOrigin ≠ .written ∧
      s' = { s with trcvmidcctlr1 := s'.trcvmidcctlr1, maskOrigin := s'.maskOrigin, draws := s.draws + 1 }

/-! ### The comparators -/

/-- R38: `MaskWellFormed(n)`, bit by bit. -/
def Obligations.MaskWellFormedMeans : Prop :=
  ∀ (s : State) (n : Comparator), maskWellFormed s n = true ↔
    ∀ m < 8, maskBit s n m = true → ∀ j < 8, (s.trcvmidcvr.get n).getLsbD (8 * m + j) = false

/-- R34. The bytes that take part in comparator `n`'s comparison are exactly those with `COMPn[m] = 0`: an ignored byte of
`TRCVMIDCVR<n>` (and of what it is compared with) has no influence on the comparison, and an included byte has, for some values
that differ in that byte only. Which comparison it is does not enter. -/
def Obligations.IncludedBytesTakePart : Prop :=
  ∀ (s : State) (n : Comparator) (m : Nat), m < 8 →
    (maskBit s n m = true → ∀ v k : Reg,
      (∀ i < 64, i / 8 ≠ m → v.getLsbD i = (s.trcvmidcvr.get n).getLsbD i ∧ k.getLsbD i = s.vcid.getLsbD i) →
      includedBytesEqual { s with trcvmidcvr := s.trcvmidcvr.set n v, vcid := k } n = includedBytesEqual s n) ∧
    (maskBit s n m = false → ∃ v v' k : Reg, (∀ i < 64, i / 8 ≠ m → v.getLsbD i = v'.getLsbD i) ∧
      includedBytesEqual { s with trcvmidcvr := s.trcvmidcvr.set n v, vcid := k } n
        ≠ includedBytesEqual { s with trcvmidcvr := s.trcvmidcvr.set n v', vcid := k } n)

/-- 40_comparator_mask.md sections 1 and 2 (equality with one comparand: G19, D9, log 11; premise of D14: the write reached the
trace unit, log 22; bytes at or above `VMIDSIZE` take part: log 33): where the duty on masked bytes holds for comparator `n` itself,
whatever the other comparators hold and whether or not the mask was ever written, a comparison that includes some byte answers
whether every included byte agrees, changes that one output, and stops nowhere. The duties of 70_reset_and_hazards.md section 3
give that for every implemented comparator. -/
def Obligations.ComparisonUnderTheDuties : Prop :=
  (∀ (s : State) (n : Comparator), comparatorPresent s.cfg n = true → Safety.comparisonDuties s → MatchDefined s n) ∧
  ∀ (s : State) (n : Comparator), present s.cfg = true → comparatorPresent s.cfg n = true →
    MatchDefined s n → comp s n ≠ 0xFF#8 →
    ∃ s' b, runEvent (.compare n) s = .next s' ∧ s'.vmidMatch.get n = some b ∧
      (b = true ↔ ∀ m < 8, maskBit s n m = false → ∀ j < 8,
        (s.trcvmidcvr.get n).getLsbD (8 * m + j) = s.vcid.getLsbD (8 * m + j)) ∧
      (∀ k, k ≠ n → s'.vmidMatch.get k = s.vmidMatch.get k) ∧
      s' = { s with vmidMatch := s'.vmidMatch, draws := s.draws + 1 }

/-- 70_reset_and_hazards.md sections 2 and 3 (the order of programming; D14's premise, log 22): an `MSR` made while Idle with a mask
whose every writable 1 stands for a zero byte of its value register establishes the duties, whatever the register held. -/
def Obligations.WriteEstablishesTheDuties : Prop :=
  ∀ (s s' : State) (t : Nat), Safety.writeDuty s → exec (.msr t) s = .next s' →
    (∀ n, comparatorPresent s.cfg n = true → ∀ m < 8,
      (writableMask s.cfg).getLsbD (8 * (comparatorNumber n - 4) + m) = true →
      (readX s t).getLsbD (8 * (comparatorNumber n - 4) + m) = true → ∀ j < 8,
        (s.trcvmidcvr.get n).getLsbD (8 * m + j) = false) →
    Safety.comparisonDuties s'

/-- 40_comparator_mask.md section 1, the equivalent form (G19, D9, log 11): with `BM(n)` the 64-bit value whose byte `m` is `0x00`
where `COMPn[m]` is 1 and `0xFF` elsewhere, the conjunction over the included bytes is `((V XOR VCID) AND BM) = 0`. -/
def Obligations.MatchIsMaskedEquality : Prop :=
  ∀ (s : State) (n : Comparator) (bm : Reg), (∀ i < 64, bm.getLsbD i = !maskBit s n (i / 8)) →
    (includedBytesEqual s n = true ↔ ((s.trcvmidcvr.get n ^^^ s.vcid) &&& bm) = 0#64)

/-- 40_comparator_mask.md section 2, CONSTRAINED UNPREDICTABLE (D10, log 17; D11, log 16): with a nonzero masked byte, or after a write
made while not Idle, the comparison answers a free bit, for this comparator only; no fault, no register changed, no other
comparator affected. -/
def Obligations.UnpredictableMatchIsFree : Prop :=
  ∀ (s : State) (n : Comparator), present s.cfg = true → comparatorPresent s.cfg n = true →
    (s.maskOrigin = .unpredictable ∨
      ∃ m < 8, maskBit s n m = true ∧ ∃ j < 8, (s.trcvmidcvr.get n).getLsbD (8 * m + j) = true) →
    ∃ s', runEvent (.compare n) s = .next s' ∧ s'.vmidMatch.get n = some (Config.freeBit s.draws) ∧
      (∀ k, k ≠ n → s'.vmidMatch.get k = s.vmidMatch.get k) ∧
      s' = { s with vmidMatch := s'.vmidMatch, draws := s.draws + 1 }

/-- 40_comparator_mask.md section 1, all bytes ignored (D19, log 18): then the mask is well formed exactly when the value register is
zero, and the comparison's turn stores true for every `VCID`, or a free bit in a machine whose parameter asks for it, and changes
nothing else. -/
def Obligations.AllBytesIgnored : Prop :=
  ∀ (s : State) (n : Comparator), comp s n = 0xFF#8 →
    (maskWellFormed s n = true ↔ s.trcvmidcvr.get n = 0#64) ∧
    (s.trcvmidcvr.get n = 0#64 → s.maskOrigin ≠ .unpredictable →
      (s.cfg.allIgnored = .matches → vmidMatchValue s n = true) ∧
      (s.cfg.allIgnored = .draw → vmidMatchValue s n = Config.freeBit s.draws)) ∧
    (present s.cfg = true → comparatorPresent s.cfg n = true → s.trcvmidcvr.get n = 0#64 →
      s.maskOrigin ≠ .unpredictable →
      ∃ s' b, runEvent (.compare n) s = .next s' ∧ s'.vmidMatch.get n = some b ∧
        (s.cfg.allIgnored = .matches → b = true) ∧ (s.cfg.allIgnored = .draw → b = Config.freeBit s.draws) ∧
        (∀ k, k ≠ n → s'.vmidMatch.get k = s.vmidMatch.get k) ∧
        s' = { s with vmidMatch := s'.vmidMatch, draws := s.draws + 1 })

/-- 40_comparator_mask.md section 1, "includes" and "ignores" (vectors, invariance check of 95_test_vectors.md 2.5): an ignored byte
of `VCID` has no influence on any comparison. -/
def Obligations.IgnoredByteHasNoInfluence : Prop :=
  ∀ (s s1 : State) (n : Comparator) (k : Reg),
    (∀ m < 8, maskBit s n m = false → ∀ j < 8, k.getLsbD (8 * m + j) = s.vcid.getLsbD (8 * m + j)) →
    runEvent (.compare n) s = .next s1 →
    runEvent (.compare n) { s with vcid := k } = .next { s1 with vcid := k }

/-- 40_comparator_mask.md sections 2 and 3 (D10): comparator `n` depends on its own field and its own value register only. -/
def Obligations.ComparatorsAreIndependent : Prop :=
  ∀ (s : State) (n k : Comparator) (r v : Reg), k ≠ n →
    (∀ m < 8, r.getLsbD (8 * (comparatorNumber n - 4) + m)
      = s.trcvmidcctlr1.getLsbD (8 * (comparatorNumber n - 4) + m)) →
    vmidMatchValue { s with trcvmidcctlr1 := r, trcvmidcvr := s.trcvmidcvr.set k v } n = vmidMatchValue s n

/-- 40_comparator_mask.md section 3 (D2, log 19): an absent comparator has no match value and a turn that names it is refused; the
comparators of a present register are those with `NUMVMIDC > n`, always 4. -/
def Obligations.AbsentComparatorIsRefused : Prop :=
  ∀ (s : State) (n : Comparator), present s.cfg = true →
    (s.cfg.numVmidc ≤ comparatorNumber n →
      runEvent (.compare n) s = .refused (.comparatorAbsent n) ∧
      ∀ v, runEvent (.setValueRegister n v) s = .refused (.comparatorAbsent n)) ∧
    (∃ s', runEvent (.compare .c4) s = .next s')

/-! ### The whole machine -/

/-- The model's step (logs 20, 25): when it is the PE's turn and the four bytes at the pc decode to an instruction, the step is
`exec` of it, on the state with the turn taken off the agenda. -/
def Obligations.StepRunsTheDecodedInstruction : Prop :=
  ∀ (s : State) (b0 b1 b2 b3 : Byte) (i : Instr) (rest : List Byte), peMovesNext s = true →
    s.mem.read s.pc.toNat = some b0 → s.mem.read (s.pc + 1).toNat = some b1 →
    s.mem.read (s.pc + 2).toNat = some b2 → s.mem.read (s.pc + 3).toNat = some b3 →
    decode [b0, b1, b2, b3] = .ok (i, rest) →
    step s = exec i { s with agenda := s.agenda.tail }

/-- 30_encoding.md section 4 (D17): on a word of the third kind the step refuses by name; and a byte nothing has written is the
model's own fault (log 25). -/
def Obligations.StepStopsOnOtherWords : Prop :=
  ∀ s : State, peMovesNext s = true →
    (∀ b0 b1 b2 b3 : Byte, s.mem.read s.pc.toNat = some b0 → s.mem.read (s.pc + 1).toNat = some b1 →
      s.mem.read (s.pc + 2).toNat = some b2 → s.mem.read (s.pc + 3).toNat = some b3 →
      (wordOfBytes b0 b1 b2 b3 &&& 0xFFDFFFE0#32) ≠ 0xD5113340#32 →
      step s = .refused (.notThisRegister (wordOfBytes b0 b1 b2 b3))) ∧
    (s.mem.read s.pc.toNat = none → step s = .fault .instructionUnavailable)

/-- The model's step (log 20): a turn of another agent is that agent's event, on the state with the turn taken off. -/
def Obligations.StepRunsTheEvent : Prop :=
  ∀ (s : State) (e : Event) (rest : List Turn), s.agenda = .event e :: rest →
    step s = runEvent e { s with agenda := rest }

/-- The model's loading of one instruction (log 26): an instruction placed by `withFetchWord` is what the very next step executes,
from any state, with nothing changed but the instruction memory and the agenda. -/
def Obligations.PlacedInstructionRuns : Prop :=
  ∀ (s : State) (w : Nat) (i : Instr), decodeTableWord 32 w = some i →
    ∃ s0, step (s.withFetchWord 32 w) = exec i s0 ∧
      s0 = { s with mem := s0.mem, agenda := s0.agenda } ∧ s0.mem = (s.withFetchWord 32 w).mem

/-- The reset values are the model's choices (logs 1 to 12): from reset every instruction placed at the pc completes. -/
def Obligations.FirstInstructionAfterResetCompletes : Prop :=
  ∀ (w : Nat) (i : Instr), decodeTableWord 32 w = some i →
    ∃ s', step (State.reset.withFetchWord 32 w) = .next s' ∧ s'.pc = 4#64 ∧
      s'.vmidMatch = State.reset.vmidMatch ∧ s'.trcvmidcvr = State.reset.trcvmidcvr

/-- The invariant holds right after reset, for every choice of the parameters (log 1). -/
def Obligations.ResetInv : Prop :=
  Safety.Inv State.reset ∧ ∀ c : Config, Safety.Inv (State.resetWith c)

/-- Every step of every agent keeps the invariant: canonical memory, no reserved bit held, an absent register without state, an
absent comparator without output. -/
def Obligations.StepKeepsInv : Prop :=
  ∀ s s' : State, Safety.Inv s → step s = .next s' → Safety.Inv s'

/-- 00_scope.md section 4 (D8): no step changes a parameter. -/
def Obligations.StepKeepsParameters : Prop :=
  ∀ s s' : State, step s = .next s' → s'.cfg = s.cfg

/-- Whole-machine rule from 10_state.md and 20_memory.md: nothing writes the register but an `MSR` executed above EL0, an external
write and a power event. -/
def Obligations.OnlyWritersChangeTheRegister : Prop :=
  ∀ s s' : State, step s = .next s' → s'.trcvmidcctlr1 ≠ s.trcvmidcctlr1 →
    (∃ t, peMovesNext s = true ∧ fetchInstr s = .next (.msr t) ∧ s.el ≠ .el0) ∨
    (∃ v rest, s.agenda = .event (.externalWrite v) :: rest) ∨
    (∃ rest, s.agenda = .event .powerEvent :: rest)

/-- 20_memory.md section 3 choice (b) (D15, log 21): the premise that no external write occurs is kept by every step, and under it
the register changes only by an `MSR` the PE executes and by a power event. -/
def Obligations.NoExternalWriteIsKept : Prop :=
  ∀ s s' : State, Safety.noExternalWrite s.agenda = true → step s = .next s' →
    Safety.noExternalWrite s'.agenda = true ∧
    (s'.trcvmidcctlr1 ≠ s.trcvmidcctlr1 →
      (∃ t, peMovesNext s = true ∧ fetchInstr s = .next (.msr t)) ∨
      (∃ rest, s.agenda = .event .powerEvent :: rest))

/-- Whole-machine rule from 40_comparator_mask.md and 41_mrs_msr_access.md section 4: the output of comparator `n` changes by its
own comparison or by a write made while not Idle, and by nothing else. -/
def Obligations.OnlyComparisonsChangeAnOutput : Prop :=
  ∀ (s s' : State) (n : Comparator), step s = .next s' → s'.vmidMatch.get n ≠ s.vmidMatch.get n →
    (∃ rest, s.agenda = .event (.compare n) :: rest) ∨
    (s.idle = false ∧ s'.maskOrigin = .unpredictable ∧
      ((∃ t, peMovesNext s = true ∧ fetchInstr s = .next (.msr t)) ∨
       (∃ v rest, s.agenda = .event (.externalWrite v) :: rest)))

/-- Whole-machine rule from 60_exceptions.md section 3: while the PE is at EL0 its turn never completes an instruction. -/
def Obligations.El0NeverCompletes : Prop :=
  ∀ s s' : State, s.el = .el0 → peMovesNext s = true → step s ≠ .next s'

/-- Log 20: an event that changes an input leaves the register, its origin, every output, the external agent's data, the
parameters and the counter of free values alone. -/
def Obligations.InputEventsLeaveTheRegister : Prop :=
  ∀ (s s' : State) (e : Event), isInput e = true → runEvent e s = .next s' →
    s'.trcvmidcctlr1 = s.trcvmidcctlr1 ∧ s'.maskOrigin = s.maskOrigin ∧ s'.vmidMatch = s.vmidMatch ∧
    s'.externalData = s.externalData ∧ s'.cfg = s.cfg ∧ s'.draws = s.draws ∧
    ((∀ a b, e ≠ .storeByte a b) → s'.mem = s.mem) ∧ ((∀ t v, e ≠ .setGpr t v) → s'.x = s.x)

/-- Log 25: a byte stored in the instruction memory reads back, and no other byte of memory and nothing else changes. -/
def Obligations.StoreByteFrame : Prop :=
  ∀ (s : State) (a : Reg) (b : Byte), ∃ s', runEvent (.storeByte a b) s = .next s' ∧
    s'.mem.read a.toNat = some b ∧ (∀ a', a' ≠ a.toNat → s'.mem.read a' = s.mem.read a') ∧
    s' = { s with mem := s'.mem }
end

