-- ==== Sys2Proof/Laws/Mask.lean ====
section
/-! SUPPORT. Bits of R8's formula and of the comparator's view of the mask. -/

namespace Sys2Proof.Machine

/-- A bit of an OR over a list is set if it is set in some term. -/
theorem getLsbD_foldr_or {α : Type} (l : List α) (f : α → Reg) (i : Nat) :
    (l.foldr (fun p acc => f p ||| acc) 0#64).getLsbD i = l.any fun p => (f p).getLsbD i := by
  induction l with
  | nil => simp
  | cons p rest ih => simp [ih]

/-- The one bit of one term of R8's formula. -/
theorem getLsbD_writableBit (c : Config) (n m i : Nat) (hi : i < 64) :
    (writableBit c n m).getLsbD i =
      (decide (c.numVmidc > n) && decide (m < c.vmidSize) && decide (i = maskBitIndex n m)) := by
  unfold writableBit
  split
  · rename_i h
    have : (1#64 <<< maskBitIndex n m).getLsbD i = decide (i = maskBitIndex n m) := by
      simp only [BitVec.getLsbD_shiftLeft, BitVec.getLsbD_one, hi, decide_true, Bool.true_and]
      rw [Bool.eq_iff_iff]
      simp only [Bool.and_eq_true, Bool.not_eq_true', decide_eq_false_iff_not, decide_eq_true_eq]
      omega
    simp [this, h.1, h.2]
  · rename_i h
    have : (decide (c.numVmidc > n) && decide (m < c.vmidSize)) = false := by
      simpa [← Bool.not_eq_true, Bool.and_eq_true, decide_eq_true_eq] using h
    simp [this]

/-- A bit of a byte of a register (R21). -/
theorem getLsbD_byteOf (r : Reg) (m j : Nat) : (byteOf r m).getLsbD j = (decide (j < 8) && r.getLsbD (8 * m + j)) := by
  simp [byteOf]

/-- A comparator sees a mask bit where it is set and writable (R4, R8). -/
theorem getLsbD_comp (s : State) (n : Comparator) (m : Nat) :
    (comp s n).getLsbD m = (decide (m < 8) && (s.trcvmidcctlr1.getLsbD (maskBitIndex (comparatorNumber n) m)
      && (writableMask s.cfg).getLsbD (maskBitIndex (comparatorNumber n) m))) := by
  simp [comp, maskBitIndex]

end Sys2Proof.Machine
end

