-- ==== Sys2Proof/Laws/Memory.lean ====
section
/-! SUPPORT. The instruction memory: a read after a write, and that every write keeps the canonical form (log 25). -/

namespace Sys2Proof.Machine

theorem Memory.read_write_same (m : Memory) (a : Nat) (b : Byte) :
    (m.write a b).read a = some b := by
  induction m with
  | nil => simp [Memory.write, Memory.read]
  | cons c rest ih =>
    unfold Memory.write
    split
    · simp [Memory.read]
    · split
      · simp [Memory.read]
      · rename_i h
        have : ¬ c.1 = a := fun e => h e.symm
        simp [Memory.read, this, ih]

theorem Memory.read_write_ne (m : Memory) {a a' : Nat} (b : Byte) (h : a' ≠ a) :
    (m.write a b).read a' = m.read a' := by
  induction m with
  | nil => simp [Memory.write, Memory.read, h.symm]
  | cons c rest ih =>
    unfold Memory.write
    split
    · simp [Memory.read, h.symm]
    · split
      · rename_i e
        subst e
        simp [Memory.read, h.symm]
      · simp [Memory.read, ih]

/-- A read after a write, in one equation. -/
theorem Memory.read_write (m : Memory) (a a' : Nat) (b : Byte) :
    (m.write a b).read a' = if a' = a then some b else m.read a' := by
  split
  · rename_i e
    rw [e, Memory.read_write_same]
  · exact Memory.read_write_ne m b ‹_›

/-- Every entry after a write is the one written or one that stood there. -/
theorem Memory.mem_write {m : Memory} {a : Nat} {b : Byte} {c : Host.Cell} (h : c ∈ m.write a b) :
    c = (a, b) ∨ c ∈ m := by
  induction m with
  | nil => simpa [Memory.write] using h
  | cons d rest ih =>
    unfold Memory.write at h
    split at h
    · simpa using h
    · split at h
      · rcases List.mem_cons.mp h with e | e
        · exact .inl e
        · exact .inr (List.mem_cons_of_mem _ e)
      · rcases List.mem_cons.mp h with e | e
        · exact .inr (e ▸ List.mem_cons_self)
        · exact (ih e).imp id (List.mem_cons_of_mem _)

theorem Memory.write_pairwise {m : Memory} (h : m.Pairwise (fun c d => c.1 < d.1)) (a : Nat) (b : Byte) :
    (m.write a b).Pairwise (fun c d => c.1 < d.1) := by
  induction m with
  | nil => simp [Memory.write]
  | cons d rest ih =>
    obtain ⟨hd, hrest⟩ := List.pairwise_cons.mp h
    unfold Memory.write
    split
    · rename_i lt
      refine List.pairwise_cons.mpr ⟨fun c hc => ?_, h⟩
      rcases List.mem_cons.mp hc with rfl | hc
      · exact lt
      · exact lt.trans (hd c hc)
    · split
      · rename_i e
        exact List.pairwise_cons.mpr ⟨fun c hc => e ▸ hd c hc, hrest⟩
      · rename_i h1 h2
        refine List.pairwise_cons.mpr ⟨fun c hc => ?_, ih hrest⟩
        rcases Memory.mem_write hc with rfl | hc
        · exact lt_of_le_of_ne (not_lt.mp h1) (Ne.symm h2)
        · exact hd c hc

/-- A write inside the address space keeps the canonical form. -/
theorem Memory.write_wf {m : Memory} (h : m.wf) {a : Nat} (ha : a < 2 ^ 64) (b : Byte) : (m.write a b).wf := by
  refine ⟨Memory.write_pairwise h.1 a b, fun c hc => ?_⟩
  rcases Memory.mem_write hc with rfl | hc
  · exact ha
  · exact h.2 c hc

/-- Writing bytes at consecutive addresses keeps the canonical form. -/
theorem Memory.writeBytes_wf {m : Memory} (h : m.wf) (a : Reg) (bs : List Byte) : (m.writeBytes a bs).wf := by
  induction bs generalizing m a with
  | nil => exact h
  | cons b rest ih => exact ih (Memory.write_wf h a.isLt b) (a + 1)

/-- The memory after reset has the canonical form, whatever the parameters. -/
theorem resetWith_mem_wf (c : Config) : (State.resetWith c).mem.wf :=
  ⟨List.Pairwise.nil, fun _ h => nomatch h⟩

/-- Four bytes placed at `pc` are the bytes the next fetch reads. -/
theorem fetchBytes_placeBytes (s : State) (b0 b1 b2 b3 : Byte) :
    fetchBytes (placeBytes s [b0, b1, b2, b3]) = some [b0, b1, b2, b3] := by
  have ne {i j : Reg} (h : i ≠ j) : (s.pc + i).toNat ≠ (s.pc + j).toNat := fun e =>
    h ((BitVec.add_right_inj s.pc).mp (BitVec.eq_of_toNat_eq e))
  have e1 : s.pc + 1 + 1 = s.pc + 2 := by rw [BitVec.add_assoc]; rfl
  have e2 : s.pc + 2 + 1 = s.pc + 3 := by rw [BitVec.add_assoc]; rfl
  have e0 : s.pc = s.pc + 0 := (BitVec.add_zero s.pc).symm
  have n01 : s.pc.toNat ≠ (s.pc + 1).toNat := by conv_lhs => rw [e0]
                                                 exact ne (by decide)
  have n02 : s.pc.toNat ≠ (s.pc + 2).toNat := by conv_lhs => rw [e0]
                                                 exact ne (by decide)
  have n03 : s.pc.toNat ≠ (s.pc + 3).toNat := by conv_lhs => rw [e0]
                                                 exact ne (by decide)
  have n12 : (s.pc + 1).toNat ≠ (s.pc + 2).toNat := ne (by decide)
  have n13 : (s.pc + 1).toNat ≠ (s.pc + 3).toNat := ne (by decide)
  have n23 : (s.pc + 2).toNat ≠ (s.pc + 3).toNat := ne (by decide)
  simp only [fetchBytes, fetchByte, placeBytes, Memory.writeBytes, e1, e2, Memory.read_write, n01, n02, n03, n12,
    n13, n23, if_true, if_false]

end Sys2Proof.Machine
end

