-- ==== Sys2Proof/Laws/State.lean ====
section
/-! SUPPORT. For each named update of the state, what every field holds after it, so that no proof unfolds a record update. -/

namespace Sys2Proof.Machine

/-! `State.advanceDraws` changes the counter of free values only. -/

@[simp] theorem State.advanceDraws_cfg (s : State) (k : Nat) :
    (s.advanceDraws k).cfg = s.cfg := rfl
@[simp] theorem State.advanceDraws_el (s : State) (k : Nat) :
    (s.advanceDraws k).el = s.el := rfl
@[simp] theorem State.advanceDraws_controls (s : State) (k : Nat) :
    (s.advanceDraws k).controls = s.controls := rfl
@[simp] theorem State.advanceDraws_predicates (s : State) (k : Nat) :
    (s.advanceDraws k).predicates = s.predicates := rfl
@[simp] theorem State.advanceDraws_x (s : State) (k : Nat) :
    (s.advanceDraws k).x = s.x := rfl
@[simp] theorem State.advanceDraws_pc (s : State) (k : Nat) :
    (s.advanceDraws k).pc = s.pc := rfl
@[simp] theorem State.advanceDraws_trcvmidcctlr1 (s : State) (k : Nat) :
    (s.advanceDraws k).trcvmidcctlr1 = s.trcvmidcctlr1 := rfl
@[simp] theorem State.advanceDraws_maskOrigin (s : State) (k : Nat) :
    (s.advanceDraws k).maskOrigin = s.maskOrigin := rfl
@[simp] theorem State.advanceDraws_trcvmidcvr (s : State) (k : Nat) :
    (s.advanceDraws k).trcvmidcvr = s.trcvmidcvr := rfl
@[simp] theorem State.advanceDraws_vcid (s : State) (k : Nat) :
    (s.advanceDraws k).vcid = s.vcid := rfl
@[simp] theorem State.advanceDraws_idle (s : State) (k : Nat) :
    (s.advanceDraws k).idle = s.idle := rfl
@[simp] theorem State.advanceDraws_vmidMatch (s : State) (k : Nat) :
    (s.advanceDraws k).vmidMatch = s.vmidMatch := rfl
@[simp] theorem State.advanceDraws_externalData (s : State) (k : Nat) :
    (s.advanceDraws k).externalData = s.externalData := rfl
@[simp] theorem State.advanceDraws_mem (s : State) (k : Nat) :
    (s.advanceDraws k).mem = s.mem := rfl
@[simp] theorem State.advanceDraws_agenda (s : State) (k : Nat) :
    (s.advanceDraws k).agenda = s.agenda := rfl
@[simp] theorem State.advanceDraws_draws (s : State) (k : Nat) :
    (s.advanceDraws k).draws = s.draws + k := rfl

/-! `State.advancePc` changes `pc` only (R51). -/

@[simp] theorem State.advancePc_cfg (s : State) :
    s.advancePc.cfg = s.cfg := rfl
@[simp] theorem State.advancePc_el (s : State) :
    s.advancePc.el = s.el := rfl
@[simp] theorem State.advancePc_controls (s : State) :
    s.advancePc.controls = s.controls := rfl
@[simp] theorem State.advancePc_predicates (s : State) :
    s.advancePc.predicates = s.predicates := rfl
@[simp] theorem State.advancePc_x (s : State) :
    s.advancePc.x = s.x := rfl
@[simp] theorem State.advancePc_pc (s : State) :
    s.advancePc.pc = s.pc + 4#64 := rfl
@[simp] theorem State.advancePc_trcvmidcctlr1 (s : State) :
    s.advancePc.trcvmidcctlr1 = s.trcvmidcctlr1 := rfl
@[simp] theorem State.advancePc_maskOrigin (s : State) :
    s.advancePc.maskOrigin = s.maskOrigin := rfl
@[simp] theorem State.advancePc_trcvmidcvr (s : State) :
    s.advancePc.trcvmidcvr = s.trcvmidcvr := rfl
@[simp] theorem State.advancePc_vcid (s : State) :
    s.advancePc.vcid = s.vcid := rfl
@[simp] theorem State.advancePc_idle (s : State) :
    s.advancePc.idle = s.idle := rfl
@[simp] theorem State.advancePc_vmidMatch (s : State) :
    s.advancePc.vmidMatch = s.vmidMatch := rfl
@[simp] theorem State.advancePc_externalData (s : State) :
    s.advancePc.externalData = s.externalData := rfl
@[simp] theorem State.advancePc_mem (s : State) :
    s.advancePc.mem = s.mem := rfl
@[simp] theorem State.advancePc_agenda (s : State) :
    s.advancePc.agenda = s.agenda := rfl
@[simp] theorem State.advancePc_draws (s : State) :
    s.advancePc.draws = s.draws := rfl

/-! `writeIdle` changes the mask bits and their origin only (R46). -/

@[simp] theorem writeIdle_cfg (v : Reg) (s : State) :
    (writeIdle v s).cfg = s.cfg := rfl
@[simp] theorem writeIdle_el (v : Reg) (s : State) :
    (writeIdle v s).el = s.el := rfl
@[simp] theorem writeIdle_controls (v : Reg) (s : State) :
    (writeIdle v s).controls = s.controls := rfl
@[simp] theorem writeIdle_predicates (v : Reg) (s : State) :
    (writeIdle v s).predicates = s.predicates := rfl
@[simp] theorem writeIdle_x (v : Reg) (s : State) :
    (writeIdle v s).x = s.x := rfl
@[simp] theorem writeIdle_pc (v : Reg) (s : State) :
    (writeIdle v s).pc = s.pc := rfl
@[simp] theorem writeIdle_trcvmidcctlr1 (v : Reg) (s : State) :
    (writeIdle v s).trcvmidcctlr1 = replaceWritable s v := rfl
@[simp] theorem writeIdle_maskOrigin (v : Reg) (s : State) :
    (writeIdle v s).maskOrigin = .written := rfl
@[simp] theorem writeIdle_trcvmidcvr (v : Reg) (s : State) :
    (writeIdle v s).trcvmidcvr = s.trcvmidcvr := rfl
@[simp] theorem writeIdle_vcid (v : Reg) (s : State) :
    (writeIdle v s).vcid = s.vcid := rfl
@[simp] theorem writeIdle_idle (v : Reg) (s : State) :
    (writeIdle v s).idle = s.idle := rfl
@[simp] theorem writeIdle_vmidMatch (v : Reg) (s : State) :
    (writeIdle v s).vmidMatch = s.vmidMatch := rfl
@[simp] theorem writeIdle_externalData (v : Reg) (s : State) :
    (writeIdle v s).externalData = s.externalData := rfl
@[simp] theorem writeIdle_mem (v : Reg) (s : State) :
    (writeIdle v s).mem = s.mem := rfl
@[simp] theorem writeIdle_agenda (v : Reg) (s : State) :
    (writeIdle v s).agenda = s.agenda := rfl
@[simp] theorem writeIdle_draws (v : Reg) (s : State) :
    (writeIdle v s).draws = s.draws := rfl

/-! `writeNotIdle` changes the mask bits, their origin, the match outputs and the counter only (R47). -/

@[simp] theorem writeNotIdle_cfg (s : State) :
    (writeNotIdle s).cfg = s.cfg := rfl
@[simp] theorem writeNotIdle_el (s : State) :
    (writeNotIdle s).el = s.el := rfl
@[simp] theorem writeNotIdle_controls (s : State) :
    (writeNotIdle s).controls = s.controls := rfl
@[simp] theorem writeNotIdle_predicates (s : State) :
    (writeNotIdle s).predicates = s.predicates := rfl
@[simp] theorem writeNotIdle_x (s : State) :
    (writeNotIdle s).x = s.x := rfl
@[simp] theorem writeNotIdle_pc (s : State) :
    (writeNotIdle s).pc = s.pc := rfl
@[simp] theorem writeNotIdle_trcvmidcctlr1 (s : State) :
    (writeNotIdle s).trcvmidcctlr1 = replaceWritable s (nextWord s) := rfl
@[simp] theorem writeNotIdle_maskOrigin (s : State) :
    (writeNotIdle s).maskOrigin = .unpredictable := rfl
@[simp] theorem writeNotIdle_trcvmidcvr (s : State) :
    (writeNotIdle s).trcvmidcvr = s.trcvmidcvr := rfl
@[simp] theorem writeNotIdle_vcid (s : State) :
    (writeNotIdle s).vcid = s.vcid := rfl
@[simp] theorem writeNotIdle_idle (s : State) :
    (writeNotIdle s).idle = s.idle := rfl
@[simp] theorem writeNotIdle_vmidMatch (s : State) :
    (writeNotIdle s).vmidMatch = ⟨drawnMatch s .c4 0, drawnMatch s .c5 1, drawnMatch s .c6 2, drawnMatch s .c7 3⟩ := rfl
@[simp] theorem writeNotIdle_externalData (s : State) :
    (writeNotIdle s).externalData = s.externalData := rfl
@[simp] theorem writeNotIdle_mem (s : State) :
    (writeNotIdle s).mem = s.mem := rfl
@[simp] theorem writeNotIdle_agenda (s : State) :
    (writeNotIdle s).agenda = s.agenda := rfl
@[simp] theorem writeNotIdle_draws (s : State) :
    (writeNotIdle s).draws = s.draws + 4 := rfl

/-! `writeX` changes the general-purpose registers only (R15). -/

@[simp] theorem writeX_cfg (s : State) (t : Nat) (v : Reg) :
    (writeX s t v).cfg = s.cfg := by unfold writeX; split <;> rfl
@[simp] theorem writeX_el (s : State) (t : Nat) (v : Reg) :
    (writeX s t v).el = s.el := by unfold writeX; split <;> rfl
@[simp] theorem writeX_controls (s : State) (t : Nat) (v : Reg) :
    (writeX s t v).controls = s.controls := by unfold writeX; split <;> rfl
@[simp] theorem writeX_predicates (s : State) (t : Nat) (v : Reg) :
    (writeX s t v).predicates = s.predicates := by unfold writeX; split <;> rfl
@[simp] theorem writeX_pc (s : State) (t : Nat) (v : Reg) :
    (writeX s t v).pc = s.pc := by unfold writeX; split <;> rfl
@[simp] theorem writeX_trcvmidcctlr1 (s : State) (t : Nat) (v : Reg) :
    (writeX s t v).trcvmidcctlr1 = s.trcvmidcctlr1 := by unfold writeX; split <;> rfl
@[simp] theorem writeX_maskOrigin (s : State) (t : Nat) (v : Reg) :
    (writeX s t v).maskOrigin = s.maskOrigin := by unfold writeX; split <;> rfl
@[simp] theorem writeX_trcvmidcvr (s : State) (t : Nat) (v : Reg) :
    (writeX s t v).trcvmidcvr = s.trcvmidcvr := by unfold writeX; split <;> rfl
@[simp] theorem writeX_vcid (s : State) (t : Nat) (v : Reg) :
    (writeX s t v).vcid = s.vcid := by unfold writeX; split <;> rfl
@[simp] theorem writeX_idle (s : State) (t : Nat) (v : Reg) :
    (writeX s t v).idle = s.idle := by unfold writeX; split <;> rfl
@[simp] theorem writeX_vmidMatch (s : State) (t : Nat) (v : Reg) :
    (writeX s t v).vmidMatch = s.vmidMatch := by unfold writeX; split <;> rfl
@[simp] theorem writeX_externalData (s : State) (t : Nat) (v : Reg) :
    (writeX s t v).externalData = s.externalData := by unfold writeX; split <;> rfl
@[simp] theorem writeX_mem (s : State) (t : Nat) (v : Reg) :
    (writeX s t v).mem = s.mem := by unfold writeX; split <;> rfl
@[simp] theorem writeX_agenda (s : State) (t : Nat) (v : Reg) :
    (writeX s t v).agenda = s.agenda := by unfold writeX; split <;> rfl
@[simp] theorem writeX_draws (s : State) (t : Nat) (v : Reg) :
    (writeX s t v).draws = s.draws := by unfold writeX; split <;> rfl

/-! `placeBytes` changes the instruction memory and the agenda only (log 26). -/

@[simp] theorem placeBytes_cfg (s : State) (bs : List Byte) :
    (placeBytes s bs).cfg = s.cfg := rfl
@[simp] theorem placeBytes_el (s : State) (bs : List Byte) :
    (placeBytes s bs).el = s.el := rfl
@[simp] theorem placeBytes_controls (s : State) (bs : List Byte) :
    (placeBytes s bs).controls = s.controls := rfl
@[simp] theorem placeBytes_predicates (s : State) (bs : List Byte) :
    (placeBytes s bs).predicates = s.predicates := rfl
@[simp] theorem placeBytes_x (s : State) (bs : List Byte) :
    (placeBytes s bs).x = s.x := rfl
@[simp] theorem placeBytes_pc (s : State) (bs : List Byte) :
    (placeBytes s bs).pc = s.pc := rfl
@[simp] theorem placeBytes_trcvmidcctlr1 (s : State) (bs : List Byte) :
    (placeBytes s bs).trcvmidcctlr1 = s.trcvmidcctlr1 := rfl
@[simp] theorem placeBytes_maskOrigin (s : State) (bs : List Byte) :
    (placeBytes s bs).maskOrigin = s.maskOrigin := rfl
@[simp] theorem placeBytes_trcvmidcvr (s : State) (bs : List Byte) :
    (placeBytes s bs).trcvmidcvr = s.trcvmidcvr := rfl
@[simp] theorem placeBytes_vcid (s : State) (bs : List Byte) :
    (placeBytes s bs).vcid = s.vcid := rfl
@[simp] theorem placeBytes_idle (s : State) (bs : List Byte) :
    (placeBytes s bs).idle = s.idle := rfl
@[simp] theorem placeBytes_vmidMatch (s : State) (bs : List Byte) :
    (placeBytes s bs).vmidMatch = s.vmidMatch := rfl
@[simp] theorem placeBytes_externalData (s : State) (bs : List Byte) :
    (placeBytes s bs).externalData = s.externalData := rfl
@[simp] theorem placeBytes_draws (s : State) (bs : List Byte) :
    (placeBytes s bs).draws = s.draws := rfl
@[simp] theorem placeBytes_mem (s : State) (bs : List Byte) :
    (placeBytes s bs).mem = s.mem.writeBytes s.pc bs := rfl

end Sys2Proof.Machine
end

