-- ==== Sys2Proof/Laws/Ops.lean ====
section
/-! SUPPORT. One lemma per shared operation: what it can do. -/

namespace Sys2Proof.Machine

/-! ### The operand `<Xt>` (R15, R30) -/

theorem readX_of_lt (s : State) {t : Nat} (h : t < 31) : readX s t = s.x[t] := by simp [readX, h]

theorem readX_zeroRegister (s : State) {t : Nat} (h : 31 ≤ t) : readX s t = 0#64 := by
  simp [readX, Nat.not_lt.mpr h]

theorem writeX_zeroRegister (s : State) {t : Nat} (v : Reg) (h : 31 ≤ t) : writeX s t v = s := by
  simp [writeX, Nat.not_lt.mpr h]

theorem readX_writeX_same (s : State) {t : Nat} (v : Reg) (h : t < 31) : readX (writeX s t v) t = v := by
  simp [readX, writeX, h]

theorem readX_writeX_ne (s : State) {t u : Nat} (v : Reg) (h : u ≠ t) : readX (writeX s t v) u = readX s u := by
  unfold writeX
  split
  · simp only [readX]
    split
    · exact Vector.getElem_set_ne _ _ (Ne.symm h)
    · rfl
  · rfl

/-- `readX` looks at nothing but the registers. -/
theorem readX_congr {s s' : State} (h : s'.x = s.x) (t : Nat) : readX s' t = readX s t := by
  simp [readX, h]

@[simp] theorem readX_advanceDraws (s : State) (k t : Nat) : readX (s.advanceDraws k) t = readX s t := rfl
@[simp] theorem readX_advancePc (s : State) (t : Nat) : readX s.advancePc t = readX s t := rfl
@[simp] theorem readX_writeIdle (v : Reg) (s : State) (t : Nat) : readX (writeIdle v s) t = readX s t := rfl
@[simp] theorem readX_writeNotIdle (s : State) (t : Nat) : readX (writeNotIdle s) t = readX s t := rfl

/-! ### One value per comparator -/

@[simp] theorem PerComparator.get_set_same {α : Type} (p : PerComparator α) (n : Comparator) (v : α) :
    (p.set n v).get n = v := by cases n <;> rfl

theorem PerComparator.get_set_ne {α : Type} (p : PerComparator α) {n k : Comparator} (v : α) (h : k ≠ n) :
    (p.set n v).get k = p.get k := by
  cases n <;> cases k <;> first | rfl | exact absurd rfl h

theorem PerComparator.ext_get {α : Type} {p q : PerComparator α} (h : ∀ n, p.get n = q.get n) : p = q := by
  obtain ⟨a, b, c, d⟩ := p
  obtain ⟨a', b', c', d'⟩ := q
  exact congr (congr (congr (congrArg PerComparator.mk (h .c4)) (h .c5)) (h .c6)) (h .c7)

/-! ### Bits of a selection under a mask -/

/-- A bit of "`a` where `w` is 1, `b` elsewhere". -/
theorem getLsbD_select (a b w : Reg) (i : Nat) (hi : i < 64) :
    ((a &&& w) ||| (b &&& ~~~w)).getLsbD i = if w.getLsbD i then a.getLsbD i else b.getLsbD i := by
  simp only [BitVec.getLsbD_or, BitVec.getLsbD_and, BitVec.getLsbD_not, hi, decide_true, Bool.true_and]
  cases w.getLsbD i <;> simp

/-- A bit of "`b` where `w` is 1, `a` elsewhere". -/
theorem getLsbD_replace (a b w : Reg) (i : Nat) (hi : i < 64) :
    ((a &&& ~~~w) ||| (b &&& w)).getLsbD i = if w.getLsbD i then b.getLsbD i else a.getLsbD i := by
  simp only [BitVec.getLsbD_or, BitVec.getLsbD_and, BitVec.getLsbD_not, hi, decide_true, Bool.true_and]
  cases w.getLsbD i <;> simp

/-- Replacing the writable bits leaves the others as they were. -/
theorem replaceWritable_reserved (s : State) (v : Reg) :
    replaceWritable s v &&& ~~~writableMask s.cfg = s.trcvmidcctlr1 &&& ~~~writableMask s.cfg := by
  apply BitVec.eq_of_getLsbD_eq
  intro i hi
  simp only [replaceWritable, BitVec.getLsbD_and, BitVec.getLsbD_or, BitVec.getLsbD_not, hi, decide_true,
    Bool.true_and]
  cases (writableMask s.cfg).getLsbD i <;> simp

/-! ### `WriteValue` (R46, R47) -/

/-- Everything `writeValue` can answer. -/
theorem writeValue_cases (v : Reg) (s : State) :
    (s.idle = true ∧ writeValue v s = .next (writeIdle v s)) ∨
    (s.idle = false ∧ s.cfg.nonIdleWrite = .draw ∧ writeValue v s = .next (writeNotIdle s)) ∨
    (s.idle = false ∧ s.cfg.nonIdleWrite = .refuse ∧ writeValue v s = .refused .writeWhileNotIdle) := by
  unfold writeValue
  cases hi : s.idle <;> cases hp : s.cfg.nonIdleWrite <;> simp

/-- If `writeValue` answers a next state, it is one of two. -/
theorem writeValue_next {v : Reg} {s s' : State} (h : writeValue v s = .next s') :
    (s.idle = true ∧ s' = writeIdle v s) ∨
    (s.idle = false ∧ s.cfg.nonIdleWrite = .draw ∧ s' = writeNotIdle s) := by
  rcases writeValue_cases v s with ⟨hi, e⟩ | ⟨hi, hp, e⟩ | ⟨hi, hp, e⟩ <;> rw [e] at h <;> simp at h
  · exact .inl ⟨hi, h.symm⟩
  · exact .inr ⟨hi, hp, h.symm⟩

/-! ### The access check (R43, R44) -/

/-- The faults the check can answer (R52). -/
theorem accessCheck_fault {d : Direction} {s : State} {f : Fault} (h : accessCheck d s = some f) :
    f = .undefined ∨ f = trapTo .el1 ∨ f = trapTo .el2 ∨ f = trapTo .el3 ∨ f = .halt .softwareAccess := by
  unfold accessCheck checkEl1 checkEl2 checkEl3 el3Outcome at h
  repeat' split at h
  all_goals first | cases h; simp | simp at h

/-- The check passes only where the register is present, above EL0 (R42, R57). -/
theorem accessCheck_none {d : Direction} {s : State} (h : accessCheck d s = none) :
    present s.cfg = true ∧ s.el ≠ .el0 := by
  unfold accessCheck at h
  split at h
  · refine ⟨‹_›, fun e => ?_⟩
    simp [e] at h
  · cases h

/-! ### The two meanings -/

/-- If `MRS` answers a next state, the check passed and this is the state (R43, R45). -/
theorem execMrs_next {t : Nat} {s s' : State} (h : execMrs t s = .next s') :
    accessCheck .read s = none ∧ s' = ((writeX s t (readValue s)).advanceDraws 1).advancePc := by
  unfold execMrs at h
  split at h
  · cases h
  · exact ⟨‹_›, by simpa using h.symm⟩

/-- If `MSR` answers a next state, the check passed and it is one of these two (R44, R46, R47). -/
theorem execMsr_next {t : Nat} {s s' : State} (h : execMsr t s = .next s') :
    accessCheck .write s = none ∧
      ((s.idle = true ∧ s' = (writeIdle (readX s t) s).advancePc) ∨
       (s.idle = false ∧ s.cfg.nonIdleWrite = .draw ∧ s' = (writeNotIdle s).advancePc)) := by
  unfold execMsr at h
  split at h
  · cases h
  · refine ⟨‹_›, ?_⟩
    rcases writeValue_cases (readX s t) s with ⟨hi, e⟩ | ⟨hi, hp, e⟩ | ⟨hi, hp, e⟩ <;> rw [e] at h <;>
      simp [onNext] at h
    · exact .inl ⟨hi, h.symm⟩
    · exact .inr ⟨hi, hp, h.symm⟩

end Sys2Proof.Machine
end

