-- ==== Sys2Proof/Laws/PerInstr.lean ====
section
/-! SUPPORT. Per-instruction laws: the encoded word's fixed bits are those of the row of spec/opcode_table.json. -/

namespace Sys2Proof.Laws.TableBits

/-- The `match` of an instruction's row of spec/opcode_table.json. -/
def rowMatch : Instr → Word
  | .mrs _ => 0xD5313340
  | .msr _ => 0xD5113340

/-- Under the rows' mask 0xFFFFFFE0, the word of a well-formed instruction is its row's `match` (R29). -/
def Statement (i : Instr) : Prop :=
  i.wellFormed = true → encode i &&& 0xFFFFFFE0#32 = rowMatch i

theorem mrs (t : Nat) : Statement (.mrs t) := by
  intro h
  have ht : t < 32 := by simpa [Instr.wellFormed] using h
  interval_cases t <;> decide

theorem msr (t : Nat) : Statement (.msr t) := by
  intro h
  have ht : t < 32 := by simpa [Instr.wellFormed] using h
  interval_cases t <;> decide

end Sys2Proof.Laws.TableBits
end

