-- ==== Sys2Proof/Laws/Step.lean ====
section
/-! SUPPORT. One inversion lemma for each event that can stop, for the PE's turn and for the step. -/

namespace Sys2Proof.Machine

/-- If a comparison answers a next state, the comparator exists and this is the state (R33, R41). -/
theorem runComparison_next {n : Comparator} {s s' : State} (h : runComparison n s = .next s') :
    present s.cfg = true ∧ comparatorPresent s.cfg n = true ∧
      s' = { s with vmidMatch := s.vmidMatch.set n (some (vmidMatchValue s n)) }.advanceDraws 1 := by
  unfold runComparison at h
  cases hp : present s.cfg <;> cases hc : comparatorPresent s.cfg n <;> simp [hp, hc] at h
  exact ⟨rfl, rfl, h.symm⟩

/-- If an external read answers a next state, the register is present and this is the state (R10, R22). -/
theorem externalRead_next {s s' : State} (h : externalRead s = .next s') :
    present s.cfg = true ∧ s' = { s with externalData := some (externalView s) }.advanceDraws 1 := by
  unfold externalRead at h
  cases hp : present s.cfg <;> simp [hp] at h
  exact ⟨rfl, h.symm⟩

/-- If an external write answers a next state, the register is present and this is the state (R22, R47). -/
theorem externalWrite_next {v : BitVec 32} {s s' : State} (h : externalWrite v s = .next s') :
    present s.cfg = true ∧
      ((s.idle = true ∧ s' = writeIdle (v.setWidth 64) s) ∨
       (s.idle = false ∧ s.cfg.nonIdleWrite = .draw ∧ s' = writeNotIdle s)) := by
  unfold externalWrite at h
  cases hp : present s.cfg <;> simp only [hp, Bool.not_false, Bool.not_true, if_true, reduceCtorEq] at h
  exact ⟨rfl, writeValue_next h⟩

/-- If a write of a value register answers a next state, the comparator exists and this is the state (R11, R41). -/
theorem setValueRegister_next {n : Comparator} {v : Reg} {s s' : State} (h : setValueRegister n v s = .next s') :
    comparatorPresent s.cfg n = true ∧ s' = { s with trcvmidcvr := s.trcvmidcvr.set n v } := by
  unfold setValueRegister at h
  split at h
  · exact ⟨‹_›, by simpa using h.symm⟩
  · cases h

/-- The four bytes a fetch reads, from the four bytes of memory. -/
theorem fetchBytes_of_read {s : State} {b0 b1 b2 b3 : Byte} (h0 : s.mem.read s.pc.toNat = some b0)
    (h1 : s.mem.read (s.pc + 1).toNat = some b1) (h2 : s.mem.read (s.pc + 2).toNat = some b2)
    (h3 : s.mem.read (s.pc + 3).toNat = some b3) : fetchBytes s = some [b0, b1, b2, b3] := by
  simp only [fetchBytes, fetchByte, h0, h1, h2, h3]

/-- If the PE's turn answers a next state, an instruction was fetched and executed. -/
theorem stepPe_next {s s' : State} (h : stepPe s = .next s') :
    ∃ i, fetchInstr s = .next i ∧ exec i s = .next s' := by
  unfold stepPe at h
  split at h
  · exact ⟨_, ‹_›, h⟩
  · cases h
  · cases h

/-- Everything one step can be: the PE's turn with an empty agenda or at its head, or an event at its head. -/
theorem step_cases (s : State) :
    (s.agenda = [] ∧ step s = stepPe s) ∨
    (∃ rest, s.agenda = .pe :: rest ∧ step s = stepPe { s with agenda := rest }) ∨
    (∃ e rest, s.agenda = .event e :: rest ∧ step s = runEvent e { s with agenda := rest }) := by
  unfold step runTurn
  rcases h : s.agenda with _ | ⟨t, rest⟩
  · exact .inl ⟨rfl, rfl⟩
  · cases t with
    | pe => exact .inr (.inl ⟨rest, rfl, rfl⟩)
    | event e => exact .inr (.inr ⟨e, rest, rfl, rfl⟩)

end Sys2Proof.Machine
end

