-- ==== Sys2Proof/Tests/Slice0.lean ====
section
/-! SUPPORT. The model's own tests: the vectors of spec/95_test_vectors.md on single definitions and single steps, the
well-formedness smoke test, and for every statement with hypotheses a named witness that meets them together. -/

namespace Sys2Proof.Tests

open Sys2Proof.Machine Sys2Proof.Claims

/-! ### Well-formedness and decoding -/

/-- R30: 31 is the last register number; 32 is refused, for both instructions. -/
theorem test_wellFormed : (Instr.mrs 31).wellFormed = true ∧ (Instr.mrs 32).wellFormed = false
    ∧ (Instr.msr 31).wellFormed = true ∧ (Instr.msr 32).wellFormed = false := by decide

/-- R29's fields written out bit by bit, `MRS X7` and `MSR X7`: fixed, L, 1, o0, op1, CRn, CRm, op2, Rt (E8, E9). -/
theorem test_decode_by_fields :
    decodeWord 0b1101010100_1_1_0_001_0011_0011_010_00111 = .ok (.mrs 7)
    ∧ decodeWord 0b1101010100_0_1_0_001_0011_0011_010_00111 = .ok (.msr 7) := by decide

/-- Vectors E1 to E7. -/
theorem test_encode_vectors : encode (.mrs 0) = 0xD5313340 ∧ encode (.mrs 1) = 0xD5313341 ∧ encode (.mrs 30) = 0xD531335E
    ∧ encode (.mrs 31) = 0xD531335F ∧ encode (.msr 0) = 0xD5113340 ∧ encode (.msr 17) = 0xD5113351
    ∧ encode (.msr 31) = 0xD511335F := by decide

/-- Vectors E10 to E16: neighbouring words are not this register. -/
theorem test_decode_refuses : ([0xD5313367, 0xD5313247, 0xD5312347, 0xD5303347, 0xD5393347, 0xD5213347, 0x00000000].all
    fun w : Word => decodeWord w == .error (.notThisRegister w)) = true := by decide

/-- The rows of spec/opcode_table.json, and a truncated instruction. -/
theorem test_decode_table : decodeTableWord 32 0xD5313340 = some (.mrs 0) ∧ decodeTableWord 32 0xD511335F = some (.msr 31)
    ∧ decodeTableWord 32 0 = none ∧ decode [0x40, 0x33, 0x31] = .error .truncated
    ∧ decode [0x40, 0x33, 0x31, 0xD5, 0x00] = .ok (.mrs 0, [0x00]) := by decide

/-! ### Fields and the writable bits -/

/-- The parameters of R8's examples. -/
def params (numVmidc vmidSize : Nat) : Config := { Config.full with numVmidc := numVmidc, vmidSize := vmidSize }

/-- Vectors M1 to M9 and M12. -/
theorem test_writableMask : writableMask (params 8 4) = 0x0F0F0F0F#64 ∧ writableMask (params 5 4) = 0x0000000F#64
    ∧ writableMask (params 6 4) = 0x00000F0F#64 ∧ writableMask (params 7 4) = 0x000F0F0F#64
    ∧ writableMask (params 6 1) = 0x00000101#64 ∧ writableMask (params 7 2) = 0x00030303#64
    ∧ writableMask (params 8 1) = 0x01010101#64 ∧ writableMask (params 8 2) = 0x03030303#64
    ∧ writableMask (params 8 8) = 0xFFFFFFFF#64
    ∧ writableMask { params 5 1 with maskReading := .sourceOnly } = 0xFFFFFFFF#64 := by decide

/-- Vectors M10, M11 and the two Boolean conditions of R3. -/
theorem test_present : present (params 8 4) = true ∧ present (params 5 1) = true ∧ present (params 4 4) = false
    ∧ present (params 8 0) = false ∧ present { params 8 4 with featEte := false } = false
    ∧ present { params 8 4 with sysRegTrace := false } = false := by decide

/-- A concrete state: EL2, no control set, Idle, the start of program P1 of 95_test_vectors.md Part 3 with a written mask. -/
def base : State where
  cfg := { Config.full with haveEl3 := false, res0Read := .zero }
  el := .el2
  controls := ⟨false, false, false, false, false, false, false, false⟩
  predicates := ⟨false, false, false, false, false⟩
  x := Vector.replicate 31 0xFFFFFFFFFFFFFFFF#64
  pc := 0x1000#64
  trcvmidcctlr1 := 0x100#64
  maskOrigin := .written
  trcvmidcvr := ⟨0x42#64, 0x1200#64, 0#64, 0#64⟩
  vcid := 0x12AB#64
  idle := true
  vmidMatch := ⟨none, none, none, none⟩
  externalData := none
  mem := []
  agenda := []
  draws := 0

/-- `base` with all 32 mask bits writable and the register holding `r`. -/
def withMask (r : Reg) : State := { base with cfg := { base.cfg with maskReading := .sourceOnly }, trcvmidcctlr1 := r }

/-- COMP7, COMP6, COMP5, COMP4. -/
def fields (s : State) : List Byte := [comp s .c7, comp s .c6, comp s .c5, comp s .c4]

/-- Vectors F1 to F6. -/
theorem test_fields : fields (withMask 0) = [0x00, 0x00, 0x00, 0x00] ∧ fields (withMask 0xFF01FE00) = [0xFF, 0x01, 0xFE, 0x00]
    ∧ fields (withMask 0x80000001) = [0x80, 0x00, 0x00, 0x01] ∧ fields (withMask 0x12345678) = [0x12, 0x34, 0x56, 0x78]
    ∧ fields (withMask 0x100) = [0x00, 0x00, 0x01, 0x00] ∧ fields (withMask 0xFFFFFFFF) = [0xFF, 0xFF, 0xFF, 0xFF] := by
  decide

/-! ### The data moved -/

/-- One field of the next state, if there is one. -/
def ofNext {α : Type} (o : Host.Outcome State Fault Refusal) (f : State → α) : Option α :=
  match o with
  | .next s => some (f s)
  | .fault _ => none
  | .refused _ => none

/-- `base` holding `v` in `x[3]`. -/
def withX (v : Reg) : State := writeX base 3 v

/-- Vectors W1 to W4 and W7: what an `MSR` stores, and that it advances the pc. -/
theorem test_msr_stores : ofNext (exec (.msr 3) (withX 0)) (·.trcvmidcctlr1) = some 0
    ∧ ofNext (exec (.msr 3) (withX 0xFFFFFFFFFFFFFFFF)) (·.trcvmidcctlr1) = some 0x0F0F0F0F
    ∧ ofNext (exec (.msr 3) (withX 0xABCDEF0112345678)) (·.trcvmidcctlr1) = some 0x02040608
    ∧ ofNext (exec (.msr 31) base) (·.trcvmidcctlr1) = some 0
    ∧ ofNext (exec (.msr 3) base) (·.pc) = some 0x1004 := by decide

/-- The worked examples of R43 and R45, and W8: what an `MRS` reads; `XZR` discards. -/
theorem test_mrs_reads : ofNext (exec (.mrs 1) base) (fun s => readX s 1) = some 0x100
    ∧ ofNext (exec (.mrs 1) { base with trcvmidcctlr1 := 0x0F000001 }) (fun s => readX s 1) = some 0x0F000001
    ∧ ofNext (exec (.mrs 31) base) (fun s => (s.x, s.trcvmidcctlr1)) = some (base.x, 0x100)
    ∧ ofNext (exec (.mrs 1) base) (·.pc) = some 0x1004 := by decide

/-! ### The access outcomes -/

/-- One row of section 2.6: Present, EL, the columns H3 to A32 as sixteen bits (H3 first), and the outcomes of `MRS` and `MSR`;
none is Complete. -/
structure AccessRow where
  isPresent : Bool
  el : ExceptionLevel
  bits : BitVec 16
  mrs : Option Fault
  msr : Option Fault

/-- Undefined. -/
def und : Option Fault := some .undefined
/-- Trap(EL1). -/
def tr1 : Option Fault := some (.systemAccessTrap .el1 0x18)
/-- Trap(EL2). -/
def tr2 : Option Fault := some (.systemAccessTrap .el2 0x18)
/-- Trap(EL3). -/
def tr3 : Option Fault := some (.systemAccessTrap .el3 0x18)
/-- Halt. -/
def hlt : Option Fault := some (.halt .softwareAccess)

/-- The state of a row. -/
def rowState (r : AccessRow) : State :=
  let b := fun k : Nat => r.bits.getMsbD k
  { base with
    cfg := { base.cfg with featEte := r.isPresent, haveEl3 := b 0, featFgt := b 7, featTrbeExt := b 11 }
    el := r.el
    controls := ⟨b 4, b 6, b 9, b 10, b 8, b 3, b 12, b 14⟩
    predicates := ⟨b 5, b 1, b 2, b 13, b 15⟩ }

/-- The fault of an outcome; none for a next state. -/
def faultOf (o : Host.Outcome State Fault Refusal) : Option Fault :=
  match o with
  | .next _ => none
  | .fault f => some f
  | .refused _ => none

/-- Both accesses of a row have the outcomes the table gives. -/
def rowHolds (r : AccessRow) : Bool :=
  faultOf (exec (.mrs 0) (rowState r)) == r.mrs && faultOf (exec (.msr 0) (rowState r)) == r.msr

/-- Vectors A1 to A12 of 95_test_vectors.md section 2.6. -/
def accessRows1 : List AccessRow :=
  [ ⟨false, .el2, 0b0000000000000000, und, und⟩,
    ⟨true, .el0, 0b0000000000000000, und, und⟩,
    ⟨true, .el0, 0b0000000000000000, und, und⟩,
    ⟨true, .el1, 0b1111100000000000, und, und⟩,
    ⟨true, .el1, 0b1001100000000000, tr1, tr1⟩,
    ⟨true, .el1, 0b0000011000000000, tr2, tr2⟩,
    ⟨true, .el1, 0b0000001000000000, none, none⟩,
    ⟨true, .el1, 0b0000010101000000, tr2, none⟩,
    ⟨true, .el1, 0b0000010100100000, none, tr2⟩,
    ⟨true, .el1, 0b1000010101100000, none, none⟩,
    ⟨true, .el1, 0b1000010111100000, tr2, tr2⟩,
    ⟨true, .el1, 0b0000010001100000, none, none⟩ ]

/-- Vectors A13 to A23 of 95_test_vectors.md section 2.6. -/
def accessRows2 : List AccessRow :=
  [ ⟨true, .el1, 0b0000000101100000, none, none⟩,
    ⟨true, .el1, 0b1001000000000000, tr3, tr3⟩,
    ⟨true, .el1, 0b1011000000000000, und, und⟩,
    ⟨true, .el1, 0b0001000000000000, none, none⟩,
    ⟨true, .el1, 0b0000000000010110, hlt, hlt⟩,
    ⟨true, .el1, 0b0000000000011110, none, none⟩,
    ⟨true, .el1, 0b0000000000010010, none, none⟩,
    ⟨true, .el1, 0b0000000000010100, none, none⟩,
    ⟨true, .el1, 0b0000000000000110, none, none⟩,
    ⟨true, .el1, 0b1001000000010110, tr3, tr3⟩,
    ⟨true, .el2, 0b1001001000000000, tr2, tr2⟩ ]

/-- Vectors A24 to A34 of 95_test_vectors.md section 2.6. -/
def accessRows3 : List AccessRow :=
  [ ⟨true, .el2, 0b1111001000000000, und, und⟩,
    ⟨true, .el2, 0b1001000000000000, tr3, tr3⟩,
    ⟨true, .el2, 0b1011000000000000, und, und⟩,
    ⟨true, .el2, 0b0000000000010111, none, none⟩,
    ⟨true, .el2, 0b0000000000010110, hlt, hlt⟩,
    ⟨true, .el2, 0b0000110101100000, none, none⟩,
    ⟨true, .el3, 0b1111000000000000, tr3, tr3⟩,
    ⟨true, .el3, 0b1000000000000000, none, none⟩,
    ⟨true, .el3, 0b1000000000010110, hlt, hlt⟩,
    ⟨true, .el3, 0b1000000000010111, none, none⟩,
    ⟨true, .el3, 0b1000111111100000, none, none⟩ ]

theorem test_access_vectors_1 : accessRows1.all rowHolds = true := by decide
theorem test_access_vectors_2 : accessRows2.all rowHolds = true := by decide
theorem test_access_vectors_3 : accessRows3.all rowHolds = true := by decide

/-- Vectors I2 to I4: not Idle, with the treatment that refuses; a read is not restricted and a trap comes first. -/
def notIdle (p : NonIdleWrite) : State := { base with idle := false, cfg := { base.cfg with nonIdleWrite := p } }

theorem test_not_idle : exec (.msr 0) (notIdle .refuse) = .refused .writeWhileNotIdle
    ∧ ofNext (exec (.mrs 0) (notIdle .refuse)) (fun s => readX s 0) = some 0x100
    ∧ ofNext (exec (.msr 0) (notIdle .draw)) (fun s => (s.maskOrigin, s.pc)) = some (.unpredictable, 0x1004)
    ∧ exec (.msr 0) { notIdle .refuse with controls := base.controls.set .cptrEl2Tta true }
        = .fault (.systemAccessTrap .el2 0x18) :=
  ⟨rfl, by decide, by decide, rfl⟩

/-! ### The comparator -/

/-- Comparator 5 with mask `c`, value register `v` and `VCID` `k`. -/
def cmpState (c : Byte) (v k : Reg) : State :=
  { withMask (c.setWidth 64 <<< 8) with trcvmidcvr := ⟨0#64, v, 0#64, 0#64⟩, vcid := k }

/-- Vectors K1 to K4, K6 to K11, K14 to K16: (C, V, K, result). -/
def matchRows : List (Byte × Reg × Reg × Bool) :=
  [ (0x00, 0x1234, 0x1234, true), (0x00, 0x1234, 0x1235, false), (0x01, 0x1200, 0x12FF, true),
    (0x01, 0x1200, 0x13FF, false), (0xFF, 0x0, 0xDEADBEEFCAFEF00D, true), (0xFE, 0xAB, 0xFFFFFFFFFFFFFFAB, true),
    (0xFE, 0xAB, 0xAA, false), (0x0E, 0xAB, 0x123456AB, true), (0x0E, 0xAB, 0x1123456AB, false),
    (0x80, 0x00AABBCCDDEEFF11, 0x77AABBCCDDEEFF11, true), (0x00, 0x0, 0x0, true),
    (0x02, 0xAABB00DD, 0xAABBCCDD, true), (0x02, 0xAABB00DD, 0xAABBCCDE, false) ]

theorem test_match_vectors : (matchRows.all fun r =>
    ofNext (runEvent (.compare .c5) (cmpState r.1 r.2.1 r.2.2.1)) (fun s => s.vmidMatch.c5) == some (some r.2.2.2)) = true := by
  decide

/-- Vectors K5, K12, K13 are draws: the mask is not well formed. -/
theorem test_match_draws : maskWellFormed (cmpState 0x01 0x1234 0x1234) .c5 = false
    ∧ maskWellFormed (cmpState 0x80 0x01AABBCCDDEEFF11 0x01AABBCCDDEEFF11) .c5 = false
    ∧ maskWellFormed (cmpState 0xFF 0x100 0) .c5 = false := by decide

/-- Program P4's table of comparisons, first two rows: mask 0x100, TRCVMIDCVR4 = 0x42, TRCVMIDCVR5 = 0x1200. -/
theorem test_p4_comparisons :
    ofNext (runEvent (.compare .c4) { base with vcid := 0x42 }) (fun s => s.vmidMatch.c4) = some (some true)
    ∧ ofNext (runEvent (.compare .c5) { base with vcid := 0x42 }) (fun s => s.vmidMatch.c5) = some (some false)
    ∧ ofNext (runEvent (.compare .c4) base) (fun s => s.vmidMatch.c4) = some (some false)
    ∧ ofNext (runEvent (.compare .c5) base) (fun s => s.vmidMatch.c5) = some (some true) := by decide

/-! ### Steps -/

/-- The step runs a placed instruction first after reset; the pc advances by 4. -/
theorem test_first_step : ofNext (step (State.reset.withFetchWord 32 0xD5313340)) (·.pc) = some 4
    ∧ ofNext (step (State.reset.withFetchWord 32 0xD5113340)) (·.pc) = some 4 := by decide

/-- R32: another word is refused by name; and reset memory holds no instruction. -/
theorem test_other_word : step (State.reset.withFetchWord 32 0xD503201F) = .refused (.notThisRegister 0xD503201F)
    ∧ step State.reset = .fault .instructionUnavailable := ⟨rfl, rfl⟩

/-- A turn of another agent is taken from the agenda: an external write, then what the external agent reads. -/
theorem test_external :
    ofNext (step { base with agenda := [.event (.externalWrite 0xFFFFFFFF)] }) (fun s => (s.trcvmidcctlr1, s.agenda))
      = some (0x0F0F0F0F, [])
    ∧ ofNext (step { base with agenda := [.event .externalRead, .pe] }) (fun s => (s.externalData, s.agenda))
      = some (some 0x100, [.pe]) := by decide

/-! ### Witnesses: each statement's hypotheses met together -/

/-- `base` with the four bytes of `w` at its pc, and its turn. -/
def loaded (w : Nat) : State := base.withFetchWord 32 w

/-- Access to EL1 and EL3 of `base`'s machine, with every control clear. -/
def atLevel (l : ExceptionLevel) (el3 : Bool) : State := { base with el := l, cfg := { base.cfg with haveEl3 := el3 } }

theorem base_inv : Safety.Inv base :=
  ⟨⟨List.Pairwise.nil, fun _ h => nomatch h⟩, by decide, by decide, fun n h => by cases n <;> rfl⟩

theorem witness_DecodeOfEncode : (Instr.mrs 31).wellFormed = true ∧ (Instr.msr 0).wellFormed = true := by decide

theorem witness_DecodedBytesAreTheEncoding : decode (encodeBytes (.msr 31) ++ [0xAA]) = .ok (.msr 31, [0xAA]) := by decide

/-- Both sides of `Present`, a state of each, and a step. -/
theorem witness_PresenceIsFixed : present base.cfg = true ∧ present (params 4 4) = false
    ∧ (∃ s', step (loaded 0xD5313340) = .next s')
    ∧ (∃ s', step { base with cfg := params 4 4, trcvmidcctlr1 := 0, agenda := [.event .powerEvent] } = .next s')
    ∧ Safety.Inv { base with cfg := params 4 4, trcvmidcctlr1 := 0 } :=
  ⟨by decide, by decide, ⟨_, rfl⟩, ⟨_, rfl⟩,
    ⟨⟨List.Pairwise.nil, fun _ h => nomatch h⟩, by decide, by decide, fun n h => by cases n <;> rfl⟩⟩

/-- BitLayout: a mask bit of `base`, a machine with all 32, and a register that differs from it above bit 31 only. -/
theorem witness_BitLayout : (7 : Nat) < 8
    ∧ (writableMask base.cfg).getLsbD (8 * (comparatorNumber .c7 - 4) + 3) = true
    ∧ writableMask (withMask 0).cfg = 0x00000000FFFFFFFF#64
    ∧ (∀ i < 32, (base.trcvmidcctlr1 ||| 0x8000000100000000#64).getLsbD i = base.trcvmidcctlr1.getLsbD i) := by decide

theorem witness_FieldLayout : (7 : Nat) < 8 ∧ (withMask 0).cfg.maskReading = .sourceOnly := by decide

theorem witness_AbsentRegisterIsUndefined : present { base with cfg := params 4 4 }.cfg = false := by decide

/-- EL1's completing row, for both directions. -/
theorem witness_Permitted_el1 (d : Direction) : Permitted d (atLevel .el1 true) := by
  refine ⟨by decide, .inl ?_⟩
  unfold NoLowerTrapAtEl1 CoarseEl2Trap FineGrained El3Trap HaltCond
  cases d <;> decide

/-- EL2's completing row, Idle and not. -/
theorem witness_Permitted_el2 (d : Direction) (p : NonIdleWrite) : Permitted d base ∧ Permitted d (notIdle p) := by
  refine ⟨⟨by decide, .inr (.inl ?_)⟩, ⟨by cases p <;> decide, .inr (.inl ?_)⟩⟩
  · unfold El3Trap HaltCond
    decide
  · unfold El3Trap HaltCond
    cases p <;> decide

/-- EL3's completing row. -/
theorem witness_Permitted_el3 (d : Direction) : Permitted d (atLevel .el3 true) := by
  refine ⟨by decide, .inr (.inr ?_)⟩
  unfold HaltCond
  decide

/-- Hypotheses of MrsCompletes at t = 0, 30 and 31, and of MsrCompletesWhileIdle. -/
theorem witness_AccessCompletes : ((0 : Nat) < 32 ∧ (30 : Nat) < 32 ∧ (31 : Nat) < 32) ∧ Permitted .read base
    ∧ Permitted .write base ∧ base.idle = true :=
  ⟨by decide, (witness_Permitted_el2 .read .draw).1, (witness_Permitted_el2 .write .draw).1, rfl⟩

/-- Hypotheses of MsrWhileNotIdleDraws and of WriteWhileNotIdleRefused. -/
theorem witness_NotIdle : (Permitted .write (notIdle .draw) ∧ (notIdle .draw).idle = false
      ∧ (notIdle .draw).cfg.nonIdleWrite = .draw)
    ∧ (Permitted .write (notIdle .refuse) ∧ Permitted .read (notIdle .refuse) ∧ present (notIdle .refuse).cfg = true
      ∧ (notIdle .refuse).idle = false ∧ (notIdle .refuse).cfg.nonIdleWrite = .refuse) :=
  ⟨⟨(witness_Permitted_el2 .write .draw).2, rfl, rfl⟩,
    ⟨(witness_Permitted_el2 .write .refuse).2, (witness_Permitted_el2 .read .refuse).2, by decide, rfl, rfl⟩⟩

/-- PriorityOrder: a state whose first outcome is each kind, and one with none, for each way a write then goes. -/
theorem witness_PriorityOrder : firstOutcome .read (atLevel .el0 true) = some .undefined
    ∧ firstOutcome .write { base with controls := base.controls.set .cptrEl2Tta true } = some (.systemAccessTrap .el2 0x18)
    ∧ firstOutcome .read base = none ∧ firstOutcome .write (notIdle .draw) = none
    ∧ firstOutcome .write (notIdle .refuse) = none := by decide

/-- TrapTargets' last clause: a trap to each level. -/
theorem witness_TrapTargets :
    exec (accessOf .read 0) { atLevel .el1 true with controls := base.controls.set .cpacrEl1Tta true }
      = .fault (.systemAccessTrap .el1 0x18)
    ∧ exec (accessOf .write 0) { base with controls := base.controls.set .cptrEl2Tta true }
      = .fault (.systemAccessTrap .el2 0x18)
    ∧ exec (accessOf .read 0) { atLevel .el3 true with controls := base.controls.set .cptrEl3Tta true }
      = .fault (.systemAccessTrap .el3 0x18) := ⟨rfl, rfl, rfl⟩

/-- A state that halts (row A28), which meets the named relations too. -/
def halting : State :=
  { base with
    controls := base.controls.set .edscr2Tta true
    predicates := base.predicates.set .haltingAllowed true }

theorem witness_HaltTermRedundantAtEl1 : Safety.InputsConsistent halting
    ∧ exec (accessOf .read 0) halting = .fault (.halt .softwareAccess) :=
  ⟨⟨(nomatch ·), (nomatch ·), (nomatch ·)⟩, rfl⟩

/-- The same with the OS Lock set (row A18's term). -/
theorem witness_OsLockPreventsHalt :
    { halting with controls := halting.controls.set .oslsrEl1Oslk true }.controls.oslsrEl1Oslk = true := rfl

theorem witness_AccessCompletesExactlyWhen : (atLevel .el0 true).el = .el0 := rfl

/-- LowerControlsHaveNoInfluence: other lower controls at EL3, and at EL2 with the same `CPTR_EL2.TTA`. -/
theorem witness_LowerControlsHaveNoInfluence :
    let c : Controls := ⟨true, false, true, true, true, false, false, false⟩
    c.cptrEl3Tta = base.controls.cptrEl3Tta ∧ c.oslsrEl1Oslk = base.controls.oslsrEl1Oslk
    ∧ c.edscr2Tta = base.controls.edscr2Tta ∧ c ≠ base.controls
    ∧ (atLevel .el3 true).el = .el3 ∧ base.el = .el2 ∧ c.cptrEl2Tta = base.controls.cptrEl2Tta := by decide

/-- MrsFrame, ReadsIgnoreIdle, MsrFrame, AccessesIgnoreMemory: a next state of each instruction, Idle and not, and a fault. -/
theorem witness_NextStates : (∃ s', exec (.mrs 1) base = .next s') ∧ (∃ s', exec (.mrs 31) base = .next s')
    ∧ (∃ s', exec (.msr 1) base = .next s') ∧ (∃ s', exec (.msr 1) (notIdle .draw) = .next s')
    ∧ exec (accessOf .read 0) (atLevel .el0 true) = .fault .undefined
    ∧ (writableMask base.cfg).getLsbD 63 = false :=
  ⟨⟨_, rfl⟩, ⟨_, rfl⟩, ⟨_, rfl⟩, ⟨_, rfl⟩, rfl, by decide⟩

/-- MrsAfterMsrReturnsTheValue and SameWriteTwice: two steps in a row, and a writable bit. -/
theorem witness_TwoAccesses : base.idle = true ∧ (2 : Nat) < 31 ∧ (writableMask base.cfg).getLsbD 27 = true
    ∧ (∃ s1 s2, exec (.msr 1) base = .next s1 ∧ exec (.mrs 2) s1 = .next s2)
    ∧ (∃ s1 s2, exec (.msr 1) base = .next s1 ∧ exec (.msr 1) s1 = .next s2) :=
  ⟨rfl, by decide, by decide, ⟨_, _, rfl, rfl⟩, ⟨_, _, rfl, rfl⟩⟩

/-- OneStorageTwoViews and LastWriterWins: both orders of the two agents. -/
theorem witness_TwoViews : base.idle = true ∧ (writableMask base.cfg).getLsbD 0 = true
    ∧ (∃ s1 s2, runEvent (.externalWrite 0x55) base = .next s1 ∧ exec (.mrs 2) s1 = .next s2)
    ∧ (∃ s1 s2, exec (.msr 1) base = .next s1 ∧ runEvent .externalRead s1 = .next s2)
    ∧ (∃ s1 s2, exec (.msr 1) base = .next s1 ∧ runEvent (.externalWrite 0x55) s1 = .next s2)
    ∧ (∃ s1 s2, runEvent (.externalWrite 0x55) base = .next s1 ∧ exec (.msr 1) s1 = .next s2) :=
  ⟨rfl, by decide, ⟨_, _, rfl, rfl⟩, ⟨_, _, rfl, rfl⟩, ⟨_, _, rfl, rfl⟩, ⟨_, _, rfl, rfl⟩⟩

theorem witness_PowerEventUnspecifiesTheMask : present base.cfg = true ∧ (writableMask base.cfg).getLsbD 3 = true := by
  decide

/-- ExternalReadReturns, ExternalWriteWhileIdle and ExternalWriteWhileNotIdleDraws. -/
theorem witness_ExternalAccesses : present base.cfg = true ∧ base.idle = true ∧ present (notIdle .draw).cfg = true
    ∧ (notIdle .draw).idle = false ∧ (notIdle .draw).cfg.nonIdleWrite = .draw := by decide

/-- IncludedBytesTakePart: `base` has an ignored and an included byte, and values that differ from its own in the ignored byte
only. -/
theorem witness_IncludedBytesTakePart : maskBit base .c5 0 = true ∧ maskBit base .c5 1 = false
    ∧ (∀ i < 64, i / 8 ≠ 0 → (base.trcvmidcvr.get .c5 ||| 0x34#64).getLsbD i = (base.trcvmidcvr.get .c5).getLsbD i
      ∧ (base.vcid ^^^ 0xFF#64).getLsbD i = base.vcid.getLsbD i) := by decide

/-- ComparisonUnderTheDuties: a mask never written since reset, comparator 5 well formed and comparator 4 not. -/
theorem witness_ComparisonOfAnUnwrittenMask :
    let s := { base with maskOrigin := .unspecified, trcvmidcctlr1 := 0x101#64, trcvmidcvr := ⟨0xFF#64, 0x1200#64, 0#64, 0#64⟩ }
    present s.cfg = true ∧ comparatorPresent s.cfg .c5 = true ∧ MatchDefined s .c5 ∧ comp s .c5 ≠ 0xFF#8
    ∧ maskWellFormed s .c4 = false :=
  ⟨by decide, by decide, ⟨by decide, by decide⟩, by decide, by decide⟩

/-- ComparisonUnderTheDuties: `base` keeps the duties, for a comparator with a masked byte and one without. -/
theorem witness_ComparisonUnderTheDuties : present base.cfg = true ∧ comparatorPresent base.cfg .c5 = true
    ∧ Safety.comparisonDuties base ∧ comp base .c5 ≠ 0xFF#8 ∧ comp base .c4 ≠ 0xFF#8
    ∧ maskBit base .c5 0 = true ∧ maskBit base .c5 7 = false :=
  ⟨by decide, by decide, ⟨rfl, fun n _ => by cases n <;> decide⟩, by decide, by decide, by decide, by decide⟩

/-- MatchIsMaskedEquality: `BM(5)` of `base` is all ones but byte 0. -/
theorem witness_MatchIsMaskedEquality :
    ∀ i < 64, (0xFFFFFFFFFFFFFF00#64).getLsbD i = !maskBit base .c5 (i / 8) := by decide

/-- MaskWellFormedMeans' inner hypotheses, UnpredictableMatchIsFree's two cases: vector K5, and a write while not Idle. -/
theorem witness_UnpredictableMatchIsFree : maskBit (cmpState 0x01 0x1234 0x1234) .c5 0 = true
    ∧ ((cmpState 0x01 0x1234 0x1234).trcvmidcvr.get .c5).getLsbD (8 * 0 + 2) = true
    ∧ present (cmpState 0x01 0x1234 0x1234).cfg = true ∧ comparatorPresent (cmpState 0x01 0x1234 0x1234).cfg .c5 = true
    ∧ { base with maskOrigin := .unpredictable }.maskOrigin = .unpredictable := by decide

/-- AllBytesIgnored: vector K6, under both settings of the parameter. -/
theorem witness_AllBytesIgnored : comp (cmpState 0xFF 0 7) .c5 = 0xFF#8 ∧ (cmpState 0xFF 0 7).trcvmidcvr.get .c5 = 0#64
    ∧ (cmpState 0xFF 0 7).maskOrigin ≠ .unpredictable ∧ (cmpState 0xFF 0 7).cfg.allIgnored = .matches
    ∧ present (cmpState 0xFF 0 7).cfg = true ∧ comparatorPresent (cmpState 0xFF 0 7).cfg .c5 = true
    ∧ { Config.full with allIgnored := .draw }.allIgnored = .draw := by decide

/-- IgnoredByteHasNoInfluence: only byte 0 of `VCID` changes, which comparator 5 of `base` ignores. -/
theorem witness_IgnoredByteHasNoInfluence :
    (∀ m < 8, maskBit base .c5 m = false → ∀ j < 8, (0x12CD#64).getLsbD (8 * m + j) = base.vcid.getLsbD (8 * m + j))
    ∧ (∃ s1, runEvent (.compare .c5) base = .next s1) := ⟨by decide, ⟨_, rfl⟩⟩

/-- ComparatorsAreIndependent: another register value with the same COMP5. -/
theorem witness_ComparatorsAreIndependent : Comparator.c4 ≠ .c5 ∧ (0x0F0F010F#64 ≠ base.trcvmidcctlr1)
    ∧ (∀ m < 8, (0x0F0F010F#64).getLsbD (8 * (comparatorNumber .c5 - 4) + m)
      = base.trcvmidcctlr1.getLsbD (8 * (comparatorNumber .c5 - 4) + m)) := by decide

/-- AbsentComparatorIsRefused: five comparators, so 5 is the first absent one and 4 is present. -/
theorem witness_AbsentComparatorIsRefused : present { base with cfg := params 5 4 }.cfg = true
    ∧ (params 5 4).numVmidc ≤ comparatorNumber .c5 ∧ ¬ (params 5 4).numVmidc ≤ comparatorNumber .c4 := by decide

/-- Writing 0x8100, whose bit 15 is RES0 (COMP5[7] with four bytes), with that byte of `TRCVMIDCVR5` nonzero. -/
def withRes0One : State :=
  { withX 0x8100 with trcvmidcvr := ⟨0x42#64, 0x7700000000001200#64, 0#64, 0#64⟩ }

/-- WriteEstablishesTheDuties: every writable 1 of the value stands for a zero byte, the RES0 one does not. -/
theorem witness_WriteEstablishesTheDuties : Safety.writeDuty withRes0One
    ∧ (∃ s', exec (.msr 3) withRes0One = .next s')
    ∧ (∀ n, comparatorPresent withRes0One.cfg n = true → ∀ m < 8,
      (writableMask withRes0One.cfg).getLsbD (8 * (comparatorNumber n - 4) + m) = true →
      (readX withRes0One 3).getLsbD (8 * (comparatorNumber n - 4) + m) = true → ∀ j < 8,
        (withRes0One.trcvmidcvr.get n).getLsbD (8 * m + j) = false) :=
  ⟨rfl, ⟨_, rfl⟩, fun n _ => by cases n <;> decide⟩

/-- StepRunsTheDecodedInstruction, with an empty agenda and with the PE's turn at its head. -/
theorem witness_StepRunsTheDecodedInstruction :
    let s := loaded 0xD5313341
    peMovesNext s = true ∧ peMovesNext { s with agenda := [.pe] } = true ∧ s.mem.read s.pc.toNat = some 0x41
    ∧ s.mem.read (s.pc + 1).toNat = some 0x33 ∧ s.mem.read (s.pc + 2).toNat = some 0x31
    ∧ s.mem.read (s.pc + 3).toNat = some 0xD5 ∧ decode [0x41, 0x33, 0x31, 0xD5] = .ok (.mrs 1, []) := by decide

/-- StepStopsOnOtherWords: a word of the third kind, and a pc where nothing was written. -/
theorem witness_StepStopsOnOtherWords :
    let s := loaded 0xD503201F
    peMovesNext s = true ∧ s.mem.read s.pc.toNat = some 0x1F ∧ s.mem.read (s.pc + 1).toNat = some 0x20
    ∧ s.mem.read (s.pc + 2).toNat = some 0x03 ∧ s.mem.read (s.pc + 3).toNat = some 0xD5
    ∧ wordOfBytes 0x1F 0x20 0x03 0xD5 &&& 0xFFDFFFE0#32 ≠ 0xD5113340#32 ∧ base.mem.read base.pc.toNat = none := by decide

theorem witness_StepRunsTheEvent : { base with agenda := [.event .externalRead] }.agenda = .event .externalRead :: [] := rfl

theorem witness_PlacedInstructionRuns : decodeTableWord 32 0xD511335F = some (.msr 31) := by decide

/-- StepKeepsInv, StepKeepsParameters: a step from a state with the invariant. -/
theorem witness_StepKeepsInv : Safety.Inv { base with agenda := [.event (.storeByte 5 1)] }
    ∧ (∃ s', step { base with agenda := [.event (.storeByte 5 1)] } = .next s') :=
  ⟨⟨base_inv.1, base_inv.2, base_inv.3, base_inv.4⟩, ⟨_, rfl⟩⟩

/-- OnlyWritersChangeTheRegister and NoExternalWriteIsKept: a step that changes the register. -/
theorem witness_OnlyWritersChangeTheRegister :
    Safety.noExternalWrite (loaded 0xD5113340).agenda = true
    ∧ (∃ s', step (loaded 0xD5113340) = .next s' ∧ s'.trcvmidcctlr1 ≠ (loaded 0xD5113340).trcvmidcctlr1) :=
  ⟨rfl, ⟨_, rfl, by decide⟩⟩

/-- OnlyComparisonsChangeAnOutput: a comparison that changes output 5. -/
theorem witness_OnlyComparisonsChangeAnOutput :
    ∃ s', step { base with agenda := [.event (.compare .c5)] } = .next s' ∧ s'.vmidMatch.get .c5 ≠ base.vmidMatch.get .c5 :=
  ⟨_, rfl, by decide⟩

theorem witness_El0NeverCompletes : (atLevel .el0 true).el = .el0 ∧ peMovesNext (atLevel .el0 true) = true := by decide

theorem witness_InputEventsLeaveTheRegister : isInput (.setIdle false) = true
    ∧ (∃ s', runEvent (.setIdle false) base = .next s') ∧ isInput (.storeByte 0 0) = true
    ∧ (∃ s', runEvent (.setGpr 30 5) base = .next s') :=
  ⟨rfl, ⟨_, rfl⟩, rfl, ⟨_, rfl⟩⟩

end Sys2Proof.Tests
end

section
/-! PROOFS. The layout of R4: the index of `COMPn[m]`, where `WritableMask` is clear, and what a comparator reads. -/

namespace Sys2Proof.Claims

open Sys2Proof.Machine

/-! ### The comparators and their numbers (R40) -/

theorem comparatorNumber_ge (n : Comparator) : 4 ≤ comparatorNumber n := by
  cases n <;> decide

theorem comparatorNumber_le (n : Comparator) : comparatorNumber n ≤ 7 := by
  cases n <;> decide

theorem exists_comparatorNumber_eq {k : Nat} (h4 : 4 ≤ k) (h7 : k ≤ 7) : ∃ n, comparatorNumber n = k := by
  interval_cases k
  · exact ⟨.c4, rfl⟩
  · exact ⟨.c5, rfl⟩
  · exact ⟨.c6, rfl⟩
  · exact ⟨.c7, rfl⟩

theorem comparatorNumber_injective : Function.Injective comparatorNumber := by
  intro a b
  cases a <;> cases b <;> decide

/-! ### The index of a mask bit (R4) -/

/-- The mask bits of the comparators lie in bits [31:0]. -/
theorem maskBitIndex_lt {n m : Nat} (hn : n ≤ 7) (hm : m < 8) : maskBitIndex n m < 32 := by
  unfold maskBitIndex
  omega

/-- The comparator's number and the byte's position are the quotient and the remainder of the index by 8. -/
theorem maskBitIndex_eq_iff {n m i : Nat} (hn : 4 ≤ n) (hm : m < 8) :
    maskBitIndex n m = i ↔ n = 4 + i / 8 ∧ m = i % 8 := by
  unfold maskBitIndex
  omega

/-- Each of bits [31:0] is one `COMPn[m]` and no other. -/
theorem existsUnique_maskBitIndex_eq {i : Nat} (hi : i < 32) :
    ∃! p : Comparator × Nat, p.2 < 8 ∧ maskBitIndex (comparatorNumber p.1) p.2 = i := by
  have hm : i % 8 < 8 := Nat.mod_lt i (by decide)
  obtain ⟨n, hn⟩ := exists_comparatorNumber_eq (k := 4 + i / 8) (by omega) (by omega)
  refine ⟨(n, i % 8), ⟨hm, (maskBitIndex_eq_iff (comparatorNumber_ge n) hm).2 ⟨hn, rfl⟩⟩, ?_⟩
  rintro ⟨k, j⟩ ⟨hj, hidx⟩
  obtain ⟨hk, rfl⟩ := (maskBitIndex_eq_iff (comparatorNumber_ge k) hj).1 hidx
  exact Prod.ext (comparatorNumber_injective (hk.trans hn.symm)) rfl

/-! ### `WritableMask` and the comparator's view (R4, R8) -/

theorem mem_maskBits {n m : Nat} : (n, m) ∈ maskBits ↔ (4 ≤ n ∧ n ≤ 7) ∧ m < 8 := by
  simp only [maskBits, List.mem_flatMap, List.mem_map, List.mem_range, Prod.mk.injEq, List.mem_cons, List.not_mem_nil,
    or_false]
  constructor
  · rintro ⟨n', hn, m', hm, rfl, rfl⟩
    omega
  · rintro ⟨hn, hm⟩
    exact ⟨n, by omega, m, hm, rfl, rfl⟩

/-- Bits [63:32] are never writable: every term of R8's formula is a bit below 32. -/
theorem getLsbD_writableMask_of_ge (c : Config) {i : Nat} (hi : 32 ≤ i) : (writableMask c).getLsbD i = false := by
  by_cases h64 : i < 64
  · cases hr : c.maskReading with
    | sourceOnly =>
      have hlow : 0x00000000FFFFFFFF#64 = (BitVec.allOnes 32).setWidth 64 := by decide
      simp only [writableMask, hr, hlow, BitVec.getLsbD_setWidth, BitVec.getLsbD_of_ge _ _ hi, Bool.and_false]
    | implemented =>
      simp only [writableMask, hr, getLsbD_foldr_or, List.any_eq_false]
      rintro ⟨n, m⟩ hp
      obtain ⟨⟨-, hn⟩, hm⟩ := mem_maskBits.1 hp
      have hne : i ≠ maskBitIndex n m := ((maskBitIndex_lt hn hm).trans_le hi).ne'
      simp [getLsbD_writableBit c n m i h64, hne]
  · exact BitVec.getLsbD_of_ge _ _ (not_lt.1 h64)

/-- Where the mask bit is writable, the comparator reads the register's bit. -/
theorem getLsbD_comp_of_writable (s : State) (n : Comparator) {m : Nat} (hm : m < 8)
    (hw : (writableMask s.cfg).getLsbD (maskBitIndex (comparatorNumber n) m) = true) :
    (comp s n).getLsbD m = s.trcvmidcctlr1.getLsbD (maskBitIndex (comparatorNumber n) m) := by
  simp only [getLsbD_comp, hm, hw, decide_true, Bool.true_and, Bool.and_true]

/-- A comparator's view depends on bits [31:0] of the register only. -/
theorem comp_congr_low (s : State) (n : Comparator) {r : Reg}
    (h : ∀ i < 32, r.getLsbD i = s.trcvmidcctlr1.getLsbD i) : comp { s with trcvmidcctlr1 := r } n = comp s n := by
  apply BitVec.eq_of_getLsbD_eq
  intro m hm
  simp only [getLsbD_comp, h _ (maskBitIndex_lt (comparatorNumber_le n) hm)]

/-- Settles O8: the index is a bijection onto bits [31:0], and the comparators read the register through it and nowhere else. -/
theorem bitLayout : Obligations.BitLayout :=
  ⟨fun _ hi => existsUnique_maskBitIndex_eq hi,
    fun s n _ hm hw => getLsbD_comp_of_writable s n hm hw,
    fun c _ hi => getLsbD_writableMask_of_ge c hi,
    fun s n _ h => comp_congr_low s n h⟩

end Sys2Proof.Claims
end

section
/-! PROOFS. Which bytes take part in comparator `n`'s comparison (R34), and what a well-formed mask is (R38). -/

namespace Sys2Proof.Claims

open Sys2Proof.Machine

/-! ### The comparator's view, byte by byte (R21, R34) -/

/-- `Ignored(n)` is read off the mask bits, each as the comparator reads it (R8, R34). -/
theorem ignored_eq_maskBit (s : State) (n : Comparator) {m : Nat} (hm : m < 8) : ignored s n m = maskBit s n m := by
  simp only [ignored, getLsbD_comp, hm, decide_true, Bool.true_and, maskBit, maskBitIndex]

theorem byteOf_eq_iff {a b : Reg} {m : Nat} :
    byteOf a m = byteOf b m ↔ ∀ j < 8, a.getLsbD (8 * m + j) = b.getLsbD (8 * m + j) := by
  constructor
  · intro h j hj
    have hbit := congrArg (·.getLsbD j) h
    simpa only [getLsbD_byteOf, hj, decide_true, Bool.true_and] using hbit
  · intro h
    apply BitVec.eq_of_getLsbD_eq
    intro j hj
    simp only [getLsbD_byteOf, h j hj]

theorem byteOf_eq_zero_iff {r : Reg} {m : Nat} : byteOf r m = 0#8 ↔ ∀ j < 8, r.getLsbD (8 * m + j) = false := by
  have hzero : byteOf 0#64 m = 0#8 := BitVec.extractLsb'_zero
  simp only [← hzero, byteOf_eq_iff, BitVec.getLsbD_zero]

/-- Registers that agree outside byte `m` have every other byte in common. -/
theorem byteOf_eq_of_agree_outside {a b : Reg} {m p : Nat} (hp : p < 8) (hne : p ≠ m)
    (h : ∀ i < 64, i / 8 ≠ m → a.getLsbD i = b.getLsbD i) : byteOf a p = byteOf b p :=
  byteOf_eq_iff.2 fun j hj => h (8 * p + j) (by omega) (by omega)

/-! ### `MaskWellFormed(n)` (R38) -/

/-- `MaskWellFormed(n)` in the mask's bits and the value register's bytes. -/
theorem maskWellFormed_iff (s : State) (n : Comparator) : maskWellFormed s n = true ↔
    ∀ m < 8, maskBit s n m = true → byteOf (s.trcvmidcvr.get n) m = 0#8 := by
  simp only [maskWellFormed, List.all_eq_true, List.mem_range]
  refine forall₂_congr fun m hm => ?_
  rw [ignored_eq_maskBit s n hm]
  cases maskBit s n m <;> simp

/-- Settles O36: a masked byte is zero where its eight bits are. -/
theorem maskWellFormedMeans : Obligations.MaskWellFormedMeans := by
  intro s n
  simp only [maskWellFormed_iff, byteOf_eq_zero_iff]

/-! ### The bytes that take part (R34) -/

/-- The comparison over the included bytes, in the mask's bits and the two values' bytes (R35). -/
theorem includedBytesEqual_iff (s : State) (n : Comparator) : includedBytesEqual s n = true ↔
    ∀ m < 8, maskBit s n m = false → byteOf (s.trcvmidcvr.get n) m = byteOf s.vcid m := by
  simp only [includedBytesEqual, List.all_eq_true, List.mem_range]
  refine forall₂_congr fun m hm => ?_
  rw [ignored_eq_maskBit s n hm]
  cases maskBit s n m <;> simp

/-- The machine with comparator `n`'s value register and the identifier replaced: its mask is that of `s`. -/
theorem includedBytesEqual_set_iff (s : State) (n : Comparator) (v k : Reg) :
    includedBytesEqual { s with trcvmidcvr := s.trcvmidcvr.set n v, vcid := k } n = true ↔
      ∀ m < 8, maskBit s n m = false → byteOf v m = byteOf k m := by
  rw [includedBytesEqual_iff, PerComparator.get_set_same]
  rfl

theorem includedBytesEqual_of_agree_outside_ignored (s : State) (n : Comparator) {m : Nat} (hign : maskBit s n m = true)
    (v k : Reg) (hv : ∀ i < 64, i / 8 ≠ m → v.getLsbD i = (s.trcvmidcvr.get n).getLsbD i)
    (hk : ∀ i < 64, i / 8 ≠ m → k.getLsbD i = s.vcid.getLsbD i) :
    includedBytesEqual { s with trcvmidcvr := s.trcvmidcvr.set n v, vcid := k } n = includedBytesEqual s n := by
  rw [Bool.eq_iff_iff, includedBytesEqual_set_iff, includedBytesEqual_iff]
  refine forall₃_congr fun p hp hinc => ?_
  have hne : p ≠ m := ne_of_apply_ne (maskBit s n) (by simp [hinc, hign])
  rw [byteOf_eq_of_agree_outside hp hne hv, byteOf_eq_of_agree_outside hp hne hk]

/-- Against an identifier of zero, `0x00` in an included byte matches and `0x01` there does not. -/
theorem includedBytesEqual_ne_of_included (s : State) (n : Comparator) {m : Nat} (hm : m < 8)
    (hinc : maskBit s n m = false) :
    includedBytesEqual { s with trcvmidcvr := s.trcvmidcvr.set n 0#64, vcid := 0#64 } n
      ≠ includedBytesEqual { s with trcvmidcvr := s.trcvmidcvr.set n (.twoPow 64 (8 * m)), vcid := 0#64 } n := by
  intro heq
  have hzero := (includedBytesEqual_set_iff s n 0#64 0#64).2 fun _ _ _ => rfl
  have hbyte : byteOf (.twoPow 64 (8 * m)) m = byteOf 0#64 m :=
    (includedBytesEqual_set_iff s n (.twoPow 64 (8 * m)) 0#64).1 (heq ▸ hzero) m hm hinc
  have hbit := byteOf_eq_iff.1 hbyte 0 (by decide)
  have hm64 : 8 * m < 64 := by omega
  simp [hm64] at hbit

/-- Settles O37: an ignored byte is left out of the conjunction, and an included byte alone decides it where the other bytes
agree. -/
theorem includedBytesTakePart : Obligations.IncludedBytesTakePart := by
  intro s n m hm
  refine ⟨fun hign v k h => ?_, fun hinc => ?_⟩
  · exact includedBytesEqual_of_agree_outside_ignored s n hign v k (fun i hi hne => (h i hi hne).1)
      fun i hi hne => (h i hi hne).2
  · refine ⟨0#64, .twoPow 64 (8 * m), 0#64, fun i hi hne => ?_, includedBytesEqual_ne_of_included s n hm hinc⟩
    have hi8 : 8 * m ≠ i := by omega
    simp only [BitVec.getLsbD_zero, BitVec.getLsbD_twoPow, hi8, decide_false, Bool.and_false]

end Sys2Proof.Claims
end

section
/-! PROOFS. The word of R29 as the concatenation of its fields, the decoder and the encoder as inverses on it, and the bytes a word is
held in (log 25). -/

namespace Sys2Proof.Claims

open Sys2Proof.Machine Sys2Proof.Laws

/-! ### The fields of a word (R29) -/

/-- Two neighbouring fields of a value are one field. -/
theorem append_field {k : Nat} (w : BitVec k) (start low high : Nat) :
    w.extractLsb' (start + low) high ++ w.extractLsb' start low = w.extractLsb' start (high + low) :=
  BitVec.extractLsb'_append_extractLsb'_eq_extractLsb' rfl

/-- A word is its fields, from bit 31 down: the split R29 makes. -/
theorem word_eq_fields (w : Word) : w = w.extractLsb' 22 10 ++ w.extractLsb' 21 1 ++ w.extractLsb' 20 1 ++
    w.extractLsb' 19 1 ++ w.extractLsb' 16 3 ++ w.extractLsb' 12 4 ++ w.extractLsb' 8 4 ++ w.extractLsb' 5 3 ++
    w.extractLsb' 0 5 := by
  rw [append_field w 21 1, append_field w 20 1, append_field w 19 1, append_field w 16 3, append_field w 12 4,
    append_field w 8 4, append_field w 5 3, append_field w 0 5]
  exact BitVec.extractLsb'_eq_self.symm

theorem namesRegister_iff (w : Word) : namesRegister w = true ↔
    w.extractLsb' 22 10 = fixedHigh ∧ w.extractLsb' 20 1 = fixed20 ∧ w.extractLsb' 19 1 = fieldO0 ∧
      w.extractLsb' 16 3 = sysOp1 ∧ w.extractLsb' 12 4 = sysCRn ∧ w.extractLsb' 8 4 = sysCRm ∧
      w.extractLsb' 5 3 = sysOp2 := by
  simp only [namesRegister, Bool.and_eq_true, beq_iff_eq, and_assoc]

/-- A word whose fixed fields name the register is R29's word of its own `L` and `Rt`. -/
theorem eq_sysregWord_of_namesRegister {w : Word} (h : namesRegister w = true) :
    w = sysregWord (w.extractLsb' 21 1) (fieldRt w) := by
  obtain ⟨hHigh, h20, hO0, hOp1, hCRn, hCRm, hOp2⟩ := (namesRegister_iff w).1 h
  conv_lhs => rw [word_eq_fields w, hHigh, h20, hO0, hOp1, hCRn, hCRm, hOp2]
  rw [sysregWord, fieldRt, BitVec.ofNat_toNat, BitVec.setWidth_eq]

/-- The fields of R29's word, for both values of `L` and all 32 of `Rt`. -/
theorem fields_sysregWord_toNat : ∀ (l : BitVec 1) (r : BitVec 5), namesRegister (sysregWord l r.toNat) = true ∧
    (sysregWord l r.toNat).extractLsb' 21 1 = l ∧ fieldRt (sysregWord l r.toNat) = r.toNat := by
  decide

theorem fields_sysregWord (l : BitVec 1) {t : Nat} (ht : t < 32) : namesRegister (sysregWord l t) = true ∧
    (sysregWord l t).extractLsb' 21 1 = l ∧ fieldRt (sysregWord l t) = t := by
  have h := fields_sysregWord_toNat l (.ofNat 5 t)
  rwa [BitVec.toNat_ofNat, Nat.mod_eq_of_lt ht] at h

theorem fieldRt_sysregWord (l : BitVec 1) {t : Nat} (ht : t < 32) : fieldRt (sysregWord l t) = t := by
  obtain ⟨-, -, hrt⟩ := fields_sysregWord l ht
  exact hrt

theorem fieldRt_lt (w : Word) : fieldRt w < 32 := (w.extractLsb' 0 5).isLt

/-! ### The decoder and the encoder (R32) -/

theorem decodeWord_sysregWord (l : BitVec 1) {t : Nat} (ht : t < 32) :
    decodeWord (sysregWord l t) = .ok (if l = lRead then .mrs t else .msr t) := by
  obtain ⟨hname, hl, hrt⟩ := fields_sysregWord l ht
  simp only [decodeWord, hname, hl, hrt, if_true, apply_ite Except.ok]

theorem decodeWord_encode {i : Instr} (h : i.wellFormed = true) : decodeWord (encode i) = .ok i := by
  cases i with
  | mrs t => exact decodeWord_sysregWord lRead (of_decide_eq_true h)
  | msr t => exact decodeWord_sysregWord lWrite (of_decide_eq_true h)

/-- Everything `decodeWord` can answer (R32). -/
theorem decodeWord_cases (w : Word) : decodeWord w = .ok (.mrs (fieldRt w)) ∨ decodeWord w = .ok (.msr (fieldRt w)) ∨
    decodeWord w = .error (.notThisRegister w) := by
  unfold decodeWord
  split
  · split
    · exact .inl rfl
    · exact .inr (.inl rfl)
  · exact .inr (.inr rfl)

/-- The one-bit field `L` has two values. -/
theorem eq_lWrite_of_ne_lRead : ∀ {l : BitVec 1}, l ≠ lRead → l = lWrite := by
  decide

theorem eq_encode_of_decodeWord {w : Word} {i : Instr} (h : decodeWord w = .ok i) :
    i.wellFormed = true ∧ w = encode i := by
  have hrt := decide_eq_true (fieldRt_lt w)
  unfold decodeWord at h
  split at h
  · rename_i hname
    have hw := eq_sysregWord_of_namesRegister hname
    split at h <;> rename_i hl <;> cases h
    · exact ⟨hrt, hw.trans (congrArg (sysregWord · _) hl)⟩
    · exact ⟨hrt, hw.trans (congrArg (sysregWord · _) (eq_lWrite_of_ne_lRead hl))⟩
  · cases h

theorem decodeWord_eq_ok_iff {w : Word} {i : Instr} : decodeWord w = .ok i ↔ i.wellFormed = true ∧ w = encode i := by
  constructor
  · exact eq_encode_of_decodeWord
  · rintro ⟨hwf, rfl⟩
    exact decodeWord_encode hwf

/-! ### The bytes of a word (log 25) -/

theorem or_reverse (a b c d : Word) : a ||| b ||| c ||| d = d ||| c ||| b ||| a := by
  rw [BitVec.or_comm _ d, BitVec.or_comm _ c, BitVec.or_comm a b, ← BitVec.or_assoc, ← BitVec.or_assoc]

theorem wordOfBytes_eq_append (b0 b1 b2 b3 : Byte) : wordOfBytes b0 b1 b2 b3 = b3 ++ b2 ++ b1 ++ b0 := by
  have h := BitVec.setWidth_append_append_append_eq_shiftLeft_setWidth_or (w'''' := 32) (b := b3) (b' := b2) (b'' := b1)
    (b''' := b0)
  rw [BitVec.setWidth_eq] at h
  rw [h]
  exact or_reverse _ _ _ _

theorem wordOfBytes_extractLsb' (w : Word) :
    wordOfBytes (w.extractLsb' 0 8) (w.extractLsb' 8 8) (w.extractLsb' 16 8) (w.extractLsb' 24 8) = w := by
  rw [wordOfBytes_eq_append, append_field w 16 8, append_field w 8 8, append_field w 0 8]
  exact BitVec.extractLsb'_eq_self

theorem bytesOfWord_wordOfBytes (b0 b1 b2 b3 : Byte) : bytesOfWord (wordOfBytes b0 b1 b2 b3) = [b0, b1, b2, b3] := by
  have hskip {k : Nat} (x : BitVec k) (b : Byte) (start : Nat) :
      (x ++ b).extractLsb' (8 + start) 8 = x.extractLsb' start 8 :=
    (BitVec.extractLsb'_append_eq_of_le (Nat.le_add_right 8 start)).trans (by rw [Nat.add_sub_cancel_left])
  rw [wordOfBytes_eq_append, bytesOfWord, hskip _ b0 0, hskip _ b0 8, hskip _ b1 0, hskip _ b0 16, hskip _ b1 8,
    hskip _ b2 0]
  simp only [BitVec.extractLsb'_append_eq_right, BitVec.extractLsb'_eq_self]

/-- Bytes decode exactly where they begin with the four bytes of a word that decodes (R31, R32). -/
theorem decode_eq_ok_iff {bs rest : List Byte} {i : Instr} :
    decode bs = .ok (i, rest) ↔ ∃ w, bs = bytesOfWord w ++ rest ∧ decodeWord w = .ok i := by
  constructor
  · intro h
    unfold decode at h
    split at h
    · rename_i b0 b1 b2 b3 tail
      split at h
      · rename_i hw
        cases h
        exact ⟨_, by rw [bytesOfWord_wordOfBytes]; rfl, hw⟩
      · cases h
    · cases h
  · rintro ⟨w, rfl, hw⟩
    simp only [bytesOfWord, List.cons_append, List.nil_append, decode, wordOfBytes_extractLsb', hw]

/-- Settles O1: the four bytes of a word give it back, and the encoder's word decodes to its instruction. -/
theorem decodeOfEncode : Obligations.DecodeOfEncode :=
  fun i _ hwf => decode_eq_ok_iff.2 ⟨encode i, rfl, decodeWord_encode hwf⟩

/-- Settles O2: a word that decodes is the encoder's, and four bytes are those of the word they make. -/
theorem decodedBytesAreTheEncoding : Obligations.DecodedBytesAreTheEncoding := by
  intro bs i rest h
  obtain ⟨w, rfl, hw⟩ := decode_eq_ok_iff.1 h
  obtain ⟨hwf, rfl⟩ := eq_encode_of_decodeWord hw
  exact ⟨hwf, rfl⟩

/-! ### Match and mask (30_encoding.md section 5) -/

theorem fieldRt_eq_and (w : Word) : fieldRt w = (w &&& 0x1F#32).toNat := by
  have hmod : w.toNat &&& 31 = w.toNat % 2 ^ 5 := Nat.and_two_pow_sub_one_eq_mod w.toNat 5
  simp [fieldRt, hmod]

/-- Words that agree under the rows' mask and in `Rt` are equal. -/
theorem eq_of_rowMask_eq {v w : Word} (hmask : v &&& 0xFFFFFFE0#32 = w &&& 0xFFFFFFE0#32)
    (hrt : fieldRt v = fieldRt w) : v = w := by
  have hlow : v &&& 0x1F#32 = w &&& 0x1F#32 := BitVec.eq_of_toNat_eq (by simpa only [fieldRt_eq_and] using hrt)
  have hsplit (u : Word) : u = (u &&& 0xFFFFFFE0#32) ||| (u &&& 0x1F#32) := by
    rw [← BitVec.and_or_distrib_left, show 0xFFFFFFE0#32 ||| 0x1F#32 = BitVec.allOnes 32 by decide, BitVec.and_allOnes]
  rw [hsplit v, hsplit w, hmask, hlow]

/-- A word has a row's `match` under the mask exactly when it decodes to the row's instruction with its own `Rt`. -/
theorem rowMatch_iff {w : Word} {i : Instr} (hwf : i.wellFormed = true)
    (hrow : encode i &&& 0xFFFFFFE0#32 = TableBits.rowMatch i) (hrt : fieldRt (encode i) = fieldRt w) :
    w &&& 0xFFFFFFE0#32 = TableBits.rowMatch i ↔ decodeWord w = .ok i := by
  rw [decodeWord_eq_ok_iff]
  constructor
  · exact fun h => ⟨hwf, eq_of_rowMask_eq (h.trans hrow.symm) hrt.symm⟩
  · rintro ⟨-, rfl⟩
    exact hrow

theorem rowMatch_mrs_iff (w : Word) :
    w &&& 0xFFFFFFE0#32 = 0xD5313340#32 ↔ decodeWord w = .ok (.mrs (fieldRt w)) :=
  have hwf : (Instr.mrs (fieldRt w)).wellFormed = true := decide_eq_true (fieldRt_lt w)
  rowMatch_iff hwf (TableBits.mrs _ hwf) (fieldRt_sysregWord lRead (fieldRt_lt w))

theorem rowMatch_msr_iff (w : Word) :
    w &&& 0xFFFFFFE0#32 = 0xD5113340#32 ↔ decodeWord w = .ok (.msr (fieldRt w)) :=
  have hwf : (Instr.msr (fieldRt w)).wellFormed = true := decide_eq_true (fieldRt_lt w)
  rowMatch_iff hwf (TableBits.msr _ hwf) (fieldRt_sysregWord lWrite (fieldRt_lt w))

/-- Settles O3: a row's match and mask picks out the words that decode to the row's instruction. -/
theorem decodeByMatchAndMask : Obligations.DecodeByMatchAndMask := by
  intro w
  simp only [← fieldRt_eq_and, rowMatch_mrs_iff, rowMatch_msr_iff]
  obtain h | h | h := decodeWord_cases w <;> simp [h]

/-- Settles O4: the spec's words, each evaluated. -/
theorem specWordsDecode : Obligations.SpecWordsDecode := by
  unfold Obligations.SpecWordsDecode
  decide

end Sys2Proof.Claims
end

section
/-! PROOFS. What an event, an instruction and a step can do, each said once (R33, R43, R44, R62; log 20). -/

namespace Sys2Proof.Claims

open Sys2Proof.Machine

/-! ### Events -/

/-- What an event that only changes an input leaves alone. -/
structure InputFrame (e : Event) (s s' : State) : Prop where
  cfg : s'.cfg = s.cfg
  trcvmidcctlr1 : s'.trcvmidcctlr1 = s.trcvmidcctlr1
  maskOrigin : s'.maskOrigin = s.maskOrigin
  vmidMatch : s'.vmidMatch = s.vmidMatch
  externalData : s'.externalData = s.externalData
  agenda : s'.agenda = s.agenda
  draws : s'.draws = s.draws
  mem : (∃ a b, e = .storeByte a b ∧ s'.mem = s.mem.write a.toNat b) ∨ s'.mem = s.mem
  x : (∃ t v, e = .setGpr t v) ∨ s'.x = s.x

theorem runEvent_inputFrame {e : Event} {s s' : State} (hin : isInput e = true) (h : runEvent e s = .next s') :
    InputFrame e s s' := by
  cases e with
  | compare n => cases hin
  | externalRead => cases hin
  | externalWrite v => cases hin
  | powerEvent => cases hin
  | setValueRegister n v =>
    obtain ⟨-, rfl⟩ := setValueRegister_next h
    exact ⟨rfl, rfl, rfl, rfl, rfl, rfl, rfl, .inr rfl, .inr rfl⟩
  | setGpr t v =>
    cases h
    constructor <;> simp
  | storeByte a b =>
    cases h
    exact ⟨rfl, rfl, rfl, rfl, rfl, rfl, rfl, .inl ⟨a, b, rfl, rfl⟩, .inr rfl⟩
  | setLevel l | setControl c b | setPredicate p b | setIdle b | setVcid v | setPc v =>
    cases h
    exact ⟨rfl, rfl, rfl, rfl, rfl, rfl, rfl, .inr rfl, .inr rfl⟩

/-- Everything an event that answers a next state can be. -/
theorem runEvent_next {e : Event} {s s' : State} (h : runEvent e s = .next s') :
    (isInput e = true ∧ InputFrame e s s') ∨
    (∃ n, e = .compare n ∧ present s.cfg = true ∧ comparatorPresent s.cfg n = true ∧
      s' = { s with vmidMatch := s.vmidMatch.set n (some (vmidMatchValue s n)) }.advanceDraws 1) ∨
    (e = .externalRead ∧ present s.cfg = true ∧
      s' = { s with externalData := some (externalView s) }.advanceDraws 1) ∨
    (∃ v, e = .externalWrite v ∧ present s.cfg = true ∧
      ((s.idle = true ∧ s' = writeIdle (v.setWidth 64) s) ∨
       (s.idle = false ∧ s.cfg.nonIdleWrite = .draw ∧ s' = writeNotIdle s))) ∨
    (e = .powerEvent ∧ s' = powerEvent s) := by
  by_cases hin : isInput e = true
  · exact .inl ⟨hin, runEvent_inputFrame hin h⟩
  · cases e with
    | compare n => exact .inr (.inl ⟨n, rfl, runComparison_next h⟩)
    | externalRead => exact .inr (.inr (.inl ⟨rfl, externalRead_next h⟩))
    | externalWrite v => exact .inr (.inr (.inr (.inl ⟨v, rfl, externalWrite_next h⟩)))
    | powerEvent => exact .inr (.inr (.inr (.inr ⟨rfl, (Host.Outcome.next.inj h).symm⟩)))
    | _ => exact absurd rfl hin

/-- A power event of a register that is not present does nothing (R3). -/
theorem powerEvent_of_absent {s : State} (h : present s.cfg = false) : powerEvent s = s := by
  simp only [powerEvent, h, Bool.false_eq_true, if_false]

/-- A power event of a present register (R9, R62). -/
theorem powerEvent_of_present {s : State} (h : present s.cfg = true) : powerEvent s =
    { s with trcvmidcctlr1 := replaceWritable s (nextWord s), maskOrigin := originAfterPower s.maskOrigin,
             draws := s.draws + 1 } := by
  simp only [powerEvent, h, if_true]

/-- What a power event leaves alone, of what the invariant and the agenda look at. -/
structure PowerFrame (s s' : State) : Prop where
  cfg : s'.cfg = s.cfg
  vmidMatch : s'.vmidMatch = s.vmidMatch
  agenda : s'.agenda = s.agenda

theorem powerEvent_frame (s : State) : PowerFrame s (powerEvent s) := by
  unfold powerEvent
  split <;> exact ⟨rfl, rfl, rfl⟩

/-- What no event changes (D8, log 20). -/
theorem runEvent_next_frame {e : Event} {s s' : State} (h : runEvent e s = .next s') :
    s'.cfg = s.cfg ∧ s'.agenda = s.agenda := by
  obtain ⟨-, hf⟩ | ⟨n, -, -, -, rfl⟩ | ⟨-, -, rfl⟩ | ⟨v, -, -, ⟨-, rfl⟩ | ⟨-, -, rfl⟩⟩ | ⟨-, rfl⟩ := runEvent_next h
  · exact ⟨hf.cfg, hf.agenda⟩
  · exact ⟨rfl, rfl⟩
  · exact ⟨rfl, rfl⟩
  · exact ⟨rfl, rfl⟩
  · exact ⟨rfl, rfl⟩
  · exact ⟨(powerEvent_frame s).cfg, (powerEvent_frame s).agenda⟩

/-- The events that write the register. -/
theorem runEvent_next_register {e : Event} {s s' : State} (h : runEvent e s = .next s')
    (hne : s'.trcvmidcctlr1 ≠ s.trcvmidcctlr1) :
    present s.cfg = true ∧ ((∃ v, e = .externalWrite v) ∨ e = .powerEvent) := by
  obtain ⟨-, hf⟩ | ⟨n, -, -, -, rfl⟩ | ⟨-, -, rfl⟩ | ⟨v, rfl, hp, -⟩ | ⟨rfl, rfl⟩ := runEvent_next h
  · exact absurd hf.trcvmidcctlr1 hne
  · exact absurd rfl hne
  · exact absurd rfl hne
  · exact ⟨hp, .inl ⟨v, rfl⟩⟩
  · refine ⟨?_, .inr rfl⟩
    by_contra hp
    exact hne (by rw [powerEvent_of_absent (Bool.eq_false_of_not_eq_true hp)])

/-- The events that change the output of comparator `n` (R33, R47). -/
theorem runEvent_next_output {e : Event} {s s' : State} {n : Comparator} (h : runEvent e s = .next s')
    (hne : s'.vmidMatch.get n ≠ s.vmidMatch.get n) :
    e = .compare n ∨ (s.idle = false ∧ s'.maskOrigin = .unpredictable ∧ ∃ v, e = .externalWrite v) := by
  obtain ⟨-, hf⟩ | ⟨k, rfl, -, -, rfl⟩ | ⟨-, -, rfl⟩ | ⟨v, rfl, -, ⟨-, rfl⟩ | ⟨hi, -, rfl⟩⟩ | ⟨-, rfl⟩ := runEvent_next h
  · exact absurd (congrArg (·.get n) hf.vmidMatch) hne
  · refine .inl (congrArg Event.compare ?_)
    by_contra hk
    exact hne (PerComparator.get_set_ne _ _ (Ne.symm hk))
  · exact absurd rfl hne
  · exact absurd rfl hne
  · exact .inr ⟨hi, rfl, v, rfl⟩
  · exact absurd (congrArg (·.get n) (powerEvent_frame s).vmidMatch) hne

/-! ### Instructions -/

/-- Everything an instruction that answers a next state can be (R43 to R47). -/
theorem exec_next {i : Instr} {s s' : State} (h : exec i s = .next s') :
    present s.cfg = true ∧ s.el ≠ .el0 ∧
    ((∃ t, i = .mrs t ∧ s' = ((writeX s t (readValue s)).advanceDraws 1).advancePc) ∨
     (∃ t, i = .msr t ∧
       ((s.idle = true ∧ s' = (writeIdle (readX s t) s).advancePc) ∨
        (s.idle = false ∧ s.cfg.nonIdleWrite = .draw ∧ s' = (writeNotIdle s).advancePc)))) := by
  cases i with
  | mrs t =>
    obtain ⟨hc, hs⟩ := execMrs_next h
    obtain ⟨hp, hel⟩ := accessCheck_none hc
    exact ⟨hp, hel, .inl ⟨t, rfl, hs⟩⟩
  | msr t =>
    obtain ⟨hc, hs⟩ := execMsr_next h
    obtain ⟨hp, hel⟩ := accessCheck_none hc
    exact ⟨hp, hel, .inr ⟨t, rfl, hs⟩⟩

/-- What no instruction changes (D8, log 20). -/
theorem exec_next_frame {i : Instr} {s s' : State} (h : exec i s = .next s') :
    s'.cfg = s.cfg ∧ s'.agenda = s.agenda := by
  obtain ⟨-, -, ⟨t, -, rfl⟩ | ⟨t, -, ⟨-, rfl⟩ | ⟨-, -, rfl⟩⟩⟩ := exec_next h
  · simp
  · exact ⟨rfl, rfl⟩
  · exact ⟨rfl, rfl⟩

/-- The instruction that writes the register is `MSR`. -/
theorem exec_next_register {i : Instr} {s s' : State} (h : exec i s = .next s')
    (hne : s'.trcvmidcctlr1 ≠ s.trcvmidcctlr1) : ∃ t, i = .msr t := by
  obtain ⟨-, -, ⟨t, -, rfl⟩ | ⟨t, rfl, -⟩⟩ := exec_next h
  · exact absurd (by simp) hne
  · exact ⟨t, rfl⟩

/-- The instruction that changes an output is an `MSR` made while not Idle (R47). -/
theorem exec_next_output {i : Instr} {s s' : State} (h : exec i s = .next s') (hne : s'.vmidMatch ≠ s.vmidMatch) :
    s.idle = false ∧ s'.maskOrigin = .unpredictable ∧ ∃ t, i = .msr t := by
  obtain ⟨-, -, ⟨t, -, rfl⟩ | ⟨t, rfl, ⟨-, rfl⟩ | ⟨hi, -, rfl⟩⟩⟩ := exec_next h
  · exact absurd (by simp) hne
  · exact absurd rfl hne
  · exact ⟨hi, rfl, t, rfl⟩

/-! ### Steps (log 20) -/

theorem step_of_peMovesNext {s : State} (h : peMovesNext s = true) :
    step s = stepPe { s with agenda := s.agenda.tail } := by
  unfold peMovesNext at h
  obtain ⟨ha, hs⟩ | ⟨rest, ha, hs⟩ | ⟨e, rest, ha, -⟩ := step_cases s
  · rw [hs, ha, List.tail_nil, ← ha]
  · rw [hs, ha, List.tail_cons]
  · rw [ha] at h
    cases h

theorem stepPe_of_fetchInstr {s : State} {i : Instr} (h : fetchInstr s = .next i) : stepPe s = exec i s := by
  simp only [stepPe, h]

/-- Everything a step that answers a next state can be: an instruction the PE fetched, or an event. -/
theorem step_next {s s' : State} (h : step s = .next s') :
    (∃ i, peMovesNext s = true ∧ fetchInstr s = .next i ∧ exec i { s with agenda := s.agenda.tail } = .next s') ∨
    (∃ e rest, s.agenda = .event e :: rest ∧ runEvent e { s with agenda := rest } = .next s') := by
  obtain ⟨ha, -⟩ | ⟨rest, ha, -⟩ | ⟨e, rest, ha, hs⟩ := step_cases s
  · have hpe : peMovesNext s = true := by simp only [peMovesNext, ha]
    obtain ⟨i, hf, hx⟩ := stepPe_next (step_of_peMovesNext hpe ▸ h)
    exact .inl ⟨i, hpe, hf, hx⟩
  · have hpe : peMovesNext s = true := by simp only [peMovesNext, ha]
    obtain ⟨i, hf, hx⟩ := stepPe_next (step_of_peMovesNext hpe ▸ h)
    exact .inl ⟨i, hpe, hf, hx⟩
  · exact .inr ⟨e, rest, ha, hs ▸ h⟩

/-- The agenda after a step is the one before without its first turn. -/
theorem step_next_agenda {s s' : State} (h : step s = .next s') : s'.agenda = s.agenda.tail := by
  obtain ⟨i, -, -, hx⟩ | ⟨e, rest, ha, he⟩ := step_next h
  · exact (exec_next_frame hx).2
  · rw [(runEvent_next_frame he).2, ha, List.tail_cons]

/-- Settles O53: no instruction and no event has a parameter among what it writes. -/
theorem stepKeepsParameters : Obligations.StepKeepsParameters := by
  intro s s' h
  obtain ⟨i, -, -, hx⟩ | ⟨e, rest, -, he⟩ := step_next h
  · exact (exec_next_frame hx).1
  · exact (runEvent_next_frame he).1.trans rfl

/-- The steps that write the register, which is present then. -/
theorem step_next_register {s s' : State} (h : step s = .next s') (hne : s'.trcvmidcctlr1 ≠ s.trcvmidcctlr1) :
    present s.cfg = true ∧
    ((∃ t, peMovesNext s = true ∧ fetchInstr s = .next (.msr t) ∧ s.el ≠ .el0) ∨
     (∃ v rest, s.agenda = .event (.externalWrite v) :: rest) ∨ (∃ rest, s.agenda = .event .powerEvent :: rest)) := by
  obtain ⟨i, hpe, hf, hx⟩ | ⟨e, rest, ha, he⟩ := step_next h
  · obtain ⟨t, rfl⟩ := exec_next_register hx hne
    obtain ⟨hp, hel, -⟩ := exec_next hx
    exact ⟨hp, .inl ⟨t, hpe, hf, hel⟩⟩
  · obtain ⟨hp, ⟨v, rfl⟩ | rfl⟩ := runEvent_next_register he hne
    · exact ⟨hp, .inr (.inl ⟨v, rest, ha⟩)⟩
    · exact ⟨hp, .inr (.inr ⟨rest, ha⟩)⟩

/-- Settles O54: the one instruction and the two events that write the register. -/
theorem onlyWritersChangeTheRegister : Obligations.OnlyWritersChangeTheRegister :=
  fun _ _ h hne => (step_next_register h hne).2

/-- Settles O55: a step only shortens the agenda, and of the writers the external one is not on it. -/
theorem noExternalWriteIsKept : Obligations.NoExternalWriteIsKept := by
  intro s s' hno h
  have hall := List.all_eq_true.1 hno
  refine ⟨List.all_eq_true.2 fun t ht => hall t (List.mem_of_mem_tail (step_next_agenda h ▸ ht)), fun hne => ?_⟩
  obtain ⟨-, ⟨t, hpe, hf, -⟩ | ⟨v, rest, ha⟩ | hpower⟩ := step_next_register h hne
  · exact .inl ⟨t, hpe, hf⟩
  · exact absurd (hall (.event (.externalWrite v)) (ha ▸ List.mem_cons_self)) Bool.false_ne_true
  · exact .inr hpower

/-- Settles O56: of the instructions and events, a comparison writes its own output and a write made while not Idle all four. -/
theorem onlyComparisonsChangeAnOutput : Obligations.OnlyComparisonsChangeAnOutput := by
  intro s s' n h hne
  obtain ⟨i, hpe, hf, hx⟩ | ⟨e, rest, ha, he⟩ := step_next h
  · obtain ⟨hi, ho, t, rfl⟩ := exec_next_output hx (ne_of_apply_ne (·.get n) hne)
    exact .inr ⟨hi, ho, .inl ⟨t, hpe, hf⟩⟩
  · obtain rfl | ⟨hi, ho, v, rfl⟩ := runEvent_next_output he hne
    · exact .inl ⟨rest, ha⟩
    · exact .inr ⟨hi, ho, .inr ⟨v, rest, ha⟩⟩

/-- Settles O57: an instruction that completes is above EL0. -/
theorem el0NeverCompletes : Obligations.El0NeverCompletes := by
  intro s s' hel hpe h
  obtain ⟨i, -, hx⟩ := stepPe_next (step_of_peMovesNext hpe ▸ h)
  obtain ⟨-, hne, -⟩ := exec_next hx
  exact hne hel

/-- Settles O58: the frame of the input events. -/
theorem inputEventsLeaveTheRegister : Obligations.InputEventsLeaveTheRegister := by
  intro s s' e hin h
  have hf := runEvent_inputFrame hin h
  exact ⟨hf.trcvmidcctlr1, hf.maskOrigin, hf.vmidMatch, hf.externalData, hf.cfg, hf.draws,
    fun hne => hf.mem.resolve_left fun ⟨a, b, he, _⟩ => hne a b he,
    fun hne => hf.x.resolve_left fun ⟨t, v, he⟩ => hne t v he⟩

/-- Settles O59: the model's memory reads back what was stored and keeps the rest. -/
theorem storeByteFrame : Obligations.StoreByteFrame :=
  fun s a b => ⟨_, rfl, s.mem.read_write_same a.toNat b, fun _ hne => s.mem.read_write_ne b hne, rfl⟩

end Sys2Proof.Claims
end

section
/-! PROOFS. The access check in the terms of the decision table (R42 to R44, R53 to R56), and what follows for the two instructions. -/

namespace Sys2Proof.Claims

open Sys2Proof.Machine

/-! ### The model's conditions are the decision table's -/

theorem haltCondition_iff (s : State) : haltCondition s = true ↔ HaltCond s := by
  simp only [haltCondition, HaltCond, Bool.and_eq_true, Bool.not_eq_true', and_assoc]

theorem haltConditionAbove_iff (s : State) :
    (!s.predicates.el1IsA32 && haltCondition s) = true ↔ s.predicates.el1IsA32 = false ∧ HaltCond s := by
  rw [Bool.and_eq_true, Bool.not_eq_true', haltCondition_iff]

theorem el3Control_iff (s : State) : el3Control s = true ↔ El3Trap s := by
  simp only [el3Control, El3Trap, Bool.and_eq_true]

theorem fineGrainedBit_eq_hx (d : Direction) (s : State) : fineGrainedBit d s = hx d s := by
  cases d <;> rfl

theorem fineGrainedTrap_iff (d : Direction) (s : State) : fineGrainedTrap d s = true ↔ FineGrained d s := by
  simp only [fineGrainedTrap, FineGrained, fineGrainedBit_eq_hx, Bool.and_eq_true, Bool.or_eq_true,
    Bool.not_eq_true', and_assoc]

theorem prioUndef_iff (s : State) :
    (s.cfg.haveEl3 && s.predicates.sddPrio && s.controls.cptrEl3Tta) = true ↔ PrioUndef s := by
  simp only [PrioUndef, Bool.and_eq_true, and_assoc]

theorem coarseEl2Trap_iff (s : State) : (s.predicates.el2Enabled && s.controls.cptrEl2Tta) = true ↔ CoarseEl2Trap s := by
  simp only [CoarseEl2Trap, Bool.and_eq_true]

/-- The UNDEFINED of cause (c) is one of the accesses the EL3 control stops (R53). -/
theorem El3Trap.of_prioUndef {s : State} : PrioUndef s → El3Trap s :=
  fun ⟨hel3, _, ht3⟩ => ⟨hel3, ht3⟩

/-! ### One branch of a procedure -/

theorem ite_some_eq_some_iff {c : Prop} [Decidable c] {g f : Fault} {rest : Option Fault} :
    (if c then some g else rest) = some f ↔ (c ∧ f = g) ∨ (¬ c ∧ rest = some f) := by
  by_cases hc : c <;> simp [hc, eq_comm]

theorem ite_some_eq_none_iff {c : Prop} [Decidable c] {g : Fault} {rest : Option Fault} :
    (if c then some g else rest) = none ↔ ¬ c ∧ rest = none := by
  by_cases hc : c <;> simp [hc]

/-! ### The procedures by level (41_mrs_msr_access.md section 6) -/

/-- The rows of the decision table at EL1 that stop. -/
theorem checkEl1_eq_some_iff (d : Direction) (s : State) (f : Fault) : checkEl1 d s = some f ↔
    (PrioUndef s ∧ f = .undefined) ∨
    (¬ PrioUndef s ∧ s.controls.cpacrEl1Tta = true ∧ f = trapTo .el1) ∨
    (¬ PrioUndef s ∧ s.controls.cpacrEl1Tta = false ∧ (CoarseEl2Trap s ∨ FineGrained d s) ∧ f = trapTo .el2) ∨
    (¬ PrioUndef s ∧ NoLowerTrapAtEl1 d s ∧ El3Trap s ∧ f = el3Outcome s) ∨
    (NoLowerTrapAtEl1 d s ∧ ¬ El3Trap s ∧ HaltCond s ∧ f = .halt .softwareAccess) := by
  simp only [checkEl1, ite_some_eq_some_iff, prioUndef_iff, coarseEl2Trap_iff, fineGrainedTrap_iff, el3Control_iff,
    haltCondition_iff, NoLowerTrapAtEl1, Bool.not_eq_true, reduceCtorEq, and_false, or_false]
  by_cases hprio : PrioUndef s
  · simp [hprio, El3Trap.of_prioUndef hprio]
  · cases hcpacr : s.controls.cpacrEl1Tta
    · by_cases hcoarse : CoarseEl2Trap s
      · simp [hprio, hcoarse]
      · by_cases hfine : FineGrained d s <;> simp [hprio, hcoarse, hfine]
    · simp [hprio]

/-- The rows of the decision table at EL2 that stop. -/
theorem checkEl2_eq_some_iff (s : State) (f : Fault) : checkEl2 s = some f ↔
    (PrioUndef s ∧ f = .undefined) ∨
    (¬ PrioUndef s ∧ s.controls.cptrEl2Tta = true ∧ f = trapTo .el2) ∨
    (¬ PrioUndef s ∧ s.controls.cptrEl2Tta = false ∧ El3Trap s ∧ f = el3Outcome s) ∨
    (s.controls.cptrEl2Tta = false ∧ ¬ El3Trap s ∧ (s.predicates.el1IsA32 = false ∧ HaltCond s) ∧
      f = .halt .softwareAccess) := by
  simp only [checkEl2, ite_some_eq_some_iff, prioUndef_iff, el3Control_iff, haltConditionAbove_iff, Bool.not_eq_true,
    reduceCtorEq, and_false, or_false]
  by_cases hprio : PrioUndef s
  · simp [hprio, El3Trap.of_prioUndef hprio]
  · cases hcptr : s.controls.cptrEl2Tta <;> simp [hprio]

/-- The rows of the decision table at EL3 that stop. -/
theorem checkEl3_eq_some_iff (s : State) (f : Fault) : checkEl3 s = some f ↔
    (s.controls.cptrEl3Tta = true ∧ f = trapTo .el3) ∨
    (s.controls.cptrEl3Tta = false ∧ (s.predicates.el1IsA32 = false ∧ HaltCond s) ∧ f = .halt .softwareAccess) := by
  simp only [checkEl3, ite_some_eq_some_iff, haltConditionAbove_iff, Bool.not_eq_true, reduceCtorEq, and_false, or_false]

/-- The whole check: UNDEFINED without the register or at EL0, else the level's procedure (R42). -/
theorem accessCheck_eq_some_iff (d : Direction) (s : State) (f : Fault) : accessCheck d s = some f ↔
    ((present s.cfg = false ∨ s.el = .el0) ∧ f = .undefined) ∨
    (present s.cfg = true ∧ ((s.el = .el1 ∧ checkEl1 d s = some f) ∨ (s.el = .el2 ∧ checkEl2 s = some f) ∨
      (s.el = .el3 ∧ checkEl3 s = some f))) := by
  cases hp : present s.cfg <;> cases hel : s.el <;> simp [accessCheck, hp, hel, eq_comm]

theorem accessCheck_eq_none_iff_level (d : Direction) (s : State) : accessCheck d s = none ↔
    present s.cfg = true ∧ ((s.el = .el1 ∧ checkEl1 d s = none) ∨ (s.el = .el2 ∧ checkEl2 s = none) ∨
      (s.el = .el3 ∧ checkEl3 s = none)) := by
  cases hp : present s.cfg <;> cases hel : s.el <;> simp [accessCheck, hp, hel]

theorem checkEl1_eq_none_iff (d : Direction) (s : State) :
    checkEl1 d s = none ↔ NoLowerTrapAtEl1 d s ∧ ¬ El3Trap s ∧ ¬ HaltCond s := by
  simp only [checkEl1, ite_some_eq_none_iff, prioUndef_iff, coarseEl2Trap_iff, fineGrainedTrap_iff, el3Control_iff,
    haltCondition_iff, NoLowerTrapAtEl1, Bool.not_eq_true, and_true, and_assoc]
  exact and_iff_right_of_imp fun ⟨_, _, _, hel3, _⟩ => mt El3Trap.of_prioUndef hel3

theorem checkEl2_eq_none_iff (s : State) : checkEl2 s = none ↔
    s.controls.cptrEl2Tta = false ∧ ¬ El3Trap s ∧ ¬ (s.predicates.el1IsA32 = false ∧ HaltCond s) := by
  simp only [checkEl2, ite_some_eq_none_iff, prioUndef_iff, el3Control_iff, haltConditionAbove_iff, Bool.not_eq_true,
    and_true]
  exact and_iff_right_of_imp fun ⟨_, hel3, _⟩ => mt El3Trap.of_prioUndef hel3

theorem checkEl3_eq_none_iff (s : State) : checkEl3 s = none ↔
    s.controls.cptrEl3Tta = false ∧ ¬ (s.predicates.el1IsA32 = false ∧ HaltCond s) := by
  simp only [checkEl3, ite_some_eq_none_iff, haltConditionAbove_iff, Bool.not_eq_true, and_true]

/-- The check passes exactly in the rows "access completes". -/
theorem accessCheck_eq_none_iff (d : Direction) (s : State) : accessCheck d s = none ↔ Permitted d s := by
  rw [accessCheck_eq_none_iff_level, checkEl1_eq_none_iff, checkEl2_eq_none_iff, checkEl3_eq_none_iff]
  rfl

/-! ### The two instructions, by the check's answer (R43, R44) -/

theorem exec_accessOf_of_some {d : Direction} {s : State} {f : Fault} (t : Nat) (h : accessCheck d s = some f) :
    exec (accessOf d t) s = .fault f := by
  cases d <;> simp only [accessOf, exec, execMrs, execMsr, h, raise]

theorem exec_mrs_of_none {s : State} (t : Nat) (h : accessCheck .read s = none) :
    exec (.mrs t) s = .next ((writeX s t (readValue s)).advanceDraws 1).advancePc := by
  simp only [exec, execMrs, h]

theorem exec_msr_of_none {s : State} (t : Nat) (h : accessCheck .write s = none) :
    exec (.msr t) s = onNext (writeValue (readX s t) s) State.advancePc := by
  simp only [exec, execMsr, h]

theorem exec_msr_idle {s : State} (t : Nat) (h : accessCheck .write s = none) (hi : s.idle = true) :
    exec (.msr t) s = .next (writeIdle (readX s t) s).advancePc := by
  simp only [exec_msr_of_none t h, writeValue, hi, if_true, onNext]

theorem exec_msr_draw {s : State} (t : Nat) (h : accessCheck .write s = none) (hi : s.idle = false)
    (hw : s.cfg.nonIdleWrite = .draw) : exec (.msr t) s = .next (writeNotIdle s).advancePc := by
  simp only [exec_msr_of_none t h, writeValue, hi, hw, Bool.false_eq_true, if_false, onNext]

theorem exec_msr_refuse {s : State} (t : Nat) (h : accessCheck .write s = none) (hi : s.idle = false)
    (hw : s.cfg.nonIdleWrite = .refuse) : exec (.msr t) s = .refused .writeWhileNotIdle := by
  simp only [exec_msr_of_none t h, writeValue, hi, hw, Bool.false_eq_true, if_false, onNext]

/-- An instruction that passes the check completes, or is a write refused while not Idle (R45 to R47). -/
theorem exec_accessOf_of_none {d : Direction} {s : State} (t : Nat) (h : accessCheck d s = none) :
    ((d = .read ∨ s.idle = true ∨ s.cfg.nonIdleWrite = .draw) ∧
      ∃ s', exec (accessOf d t) s = .next s' ∧ s'.pc = s.pc + 4#64) ∨
    ((d = .write ∧ s.idle = false ∧ s.cfg.nonIdleWrite = .refuse) ∧
      exec (accessOf d t) s = .refused .writeWhileNotIdle) := by
  cases d with
  | read => exact .inl ⟨.inl rfl, _, exec_mrs_of_none t h, by simp⟩
  | write =>
    cases hi : s.idle with
    | true => exact .inl ⟨.inr (.inl rfl), _, exec_msr_idle t h hi, rfl⟩
    | false =>
      cases hw : s.cfg.nonIdleWrite with
      | draw => exact .inl ⟨.inr (.inr rfl), _, exec_msr_draw t h hi hw, rfl⟩
      | refuse => exact .inr ⟨⟨rfl, rfl, rfl⟩, exec_msr_refuse t h hi hw⟩

/-- An instruction faults exactly where the check says so, with the check's fault. -/
theorem exec_accessOf_eq_fault_iff (d : Direction) (t : Nat) (s : State) (f : Fault) :
    exec (accessOf d t) s = .fault f ↔ accessCheck d s = some f := by
  cases hc : accessCheck d s with
  | none =>
    obtain ⟨-, s', hx, -⟩ | ⟨-, hx⟩ := exec_accessOf_of_none t hc <;> simp [hx]
  | some g => simp [exec_accessOf_of_some t hc]

/-! ### The abnormal outcomes (R53 to R55) -/

theorem undefined_eq_el3Outcome_iff (s : State) : Fault.undefined = el3Outcome s ↔ s.predicates.sddUndef = true := by
  cases h : s.predicates.sddUndef <;> simp [el3Outcome, trapTo, h]

theorem trap_eq_el3Outcome_iff (s : State) (target : ExceptionLevel) (code : Nat) :
    Fault.systemAccessTrap target code = el3Outcome s ↔
      s.predicates.sddUndef = false ∧ target = .el3 ∧ code = 0x18 := by
  cases h : s.predicates.sddUndef <;> simp [el3Outcome, trapTo, trapCode, h]

theorem halt_ne_el3Outcome (s : State) (r : HaltReason) : Fault.halt r ≠ el3Outcome s := by
  cases h : s.predicates.sddUndef <;> simp [el3Outcome, trapTo, h]

theorem trap_eq_trapTo_iff (target level : ExceptionLevel) (code : Nat) :
    Fault.systemAccessTrap target code = trapTo level ↔ target = level ∧ code = 0x18 := by
  simp only [trapTo, trapCode, Fault.systemAccessTrap.injEq]

/-- Settles O9: presence is tested before everything else. -/
theorem absentRegisterIsUndefined : Obligations.AbsentRegisterIsUndefined := by
  intro s t hp
  have hc (d : Direction) : accessCheck d s = some .undefined := (accessCheck_eq_some_iff d s _).2 (.inl ⟨.inl hp, rfl⟩)
  exact ⟨exec_accessOf_of_some (d := .read) t (hc .read), exec_accessOf_of_some (d := .write) t (hc .write)⟩

/-- Settles O10: the rows of the decision table whose fault is UNDEFINED. -/
theorem undefinedExactlyWhen : Obligations.UndefinedExactlyWhen := by
  intro d t s
  rw [exec_accessOf_eq_fault_iff, accessCheck_eq_some_iff, checkEl1_eq_some_iff, checkEl2_eq_some_iff,
    checkEl3_eq_some_iff]
  simp only [undefined_eq_el3Outcome_iff, trapTo, reduceCtorEq, and_true, and_false, or_false]
  cases hp : present s.cfg
  · simp
  · cases hel : s.el <;> simp only [reduceCtorEq, false_and, true_and, or_false, false_or, Bool.true_eq_false]
    · tauto
    · tauto

/-- Settles O12: the rows of the decision table whose outcome is the halt. -/
theorem haltExactlyWhen : Obligations.HaltExactlyWhen := by
  intro d t s
  rw [exec_accessOf_eq_fault_iff, accessCheck_eq_some_iff, checkEl1_eq_some_iff, checkEl2_eq_some_iff,
    checkEl3_eq_some_iff]
  simp only [halt_ne_el3Outcome, trapTo, reduceCtorEq, and_true, and_false, false_or]
  tauto

/-- The rows whose fault is a trap. -/
theorem accessCheck_eq_trap_iff (d : Direction) (s : State) (target : ExceptionLevel) (code : Nat) :
    accessCheck d s = some (.systemAccessTrap target code) ↔ code = 0x18 ∧ present s.cfg = true ∧
      ((s.el = .el1 ∧ ¬ PrioUndef s ∧ s.controls.cpacrEl1Tta = true ∧ target = .el1) ∨
       (s.el = .el1 ∧ ¬ PrioUndef s ∧ s.controls.cpacrEl1Tta = false ∧ (CoarseEl2Trap s ∨ FineGrained d s) ∧
          target = .el2) ∨
       (s.el = .el2 ∧ ¬ PrioUndef s ∧ s.controls.cptrEl2Tta = true ∧ target = .el2) ∨
       (s.el = .el1 ∧ ¬ PrioUndef s ∧ NoLowerTrapAtEl1 d s ∧ El3Trap s ∧ s.predicates.sddUndef = false ∧
          target = .el3) ∨
       (s.el = .el2 ∧ ¬ PrioUndef s ∧ s.controls.cptrEl2Tta = false ∧ El3Trap s ∧ s.predicates.sddUndef = false ∧
          target = .el3) ∨
       (s.el = .el3 ∧ s.controls.cptrEl3Tta = true ∧ target = .el3)) := by
  rw [accessCheck_eq_some_iff, checkEl1_eq_some_iff, checkEl2_eq_some_iff, checkEl3_eq_some_iff]
  simp only [trap_eq_el3Outcome_iff, trap_eq_trapTo_iff, reduceCtorEq, and_false, false_or, or_false]
  cases hel : s.el <;> simp only [reduceCtorEq, false_and, true_and, or_false, false_or, and_false]
  · tauto
  · tauto
  · tauto

/-- Settles O11: the rows whose fault is a trap, one target at a time. -/
theorem trapTargets : Obligations.TrapTargets := by
  intro d t s code
  simp only [exec_accessOf_eq_fault_iff, accessCheck_eq_trap_iff, reduceCtorEq, and_true, and_false, or_false, false_or]
  refine ⟨trivial, ?_, trivial, ?_⟩
  · tauto
  · rintro target ⟨hcode, -, hrow⟩
    obtain ⟨hel, -, -, rfl⟩ | ⟨hel, -, -, -, rfl⟩ | ⟨hel, -, -, rfl⟩ | ⟨hel, -, -, -, -, rfl⟩ | ⟨hel, -, -, -, -, rfl⟩ |
      ⟨hel, -, rfl⟩ := hrow <;> simp [hcode, hel, levelRank]

/-! ### The order of priority (R56) -/

/-- The first row that holds, one row at a time. -/
theorem firstRow_cons (c : Bool) (f : Fault) (rows : List (Bool × Fault)) :
    (((c, f) :: rows).find? fun r => r.1).map (fun r => r.2) =
      if c then some f else (rows.find? fun r => r.1).map fun r => r.2 := by
  cases c <;> rfl

/-- R56's two rows of the EL3 control are the one branch of the procedures. -/
theorem el3Rows_eq (s : State) (c : Bool) (rest : Option Fault) :
    (if (c && s.predicates.sddUndef) = true then some Fault.undefined
      else if c = true then some (Fault.systemAccessTrap .el3 0x18) else rest) =
      if c = true then some (el3Outcome s) else rest := by
  cases c
  · rfl
  · cases h : s.predicates.sddUndef <;> simp [el3Outcome, trapTo, trapCode, h]

/-- The list of R56 and the procedures choose the same outcome. -/
theorem firstOutcome_eq_accessCheck (d : Direction) (s : State) : firstOutcome d s = accessCheck d s := by
  have hprio : (s.predicates.sddPrio && (s.cfg.haveEl3 && s.controls.cptrEl3Tta)) =
      (s.cfg.haveEl3 && s.predicates.sddPrio && s.controls.cptrEl3Tta) := by
    rw [Bool.and_left_comm, Bool.and_assoc]
  simp only [firstOutcome, priorityList, firstRow_cons, List.find?_nil, Option.map_none, accessCheck, ← fineGrainedBit_eq_hx]
  cases present s.cfg
  · rfl
  · cases s.el
    · rfl
    · simp only [reduceCtorEq, decide_true, decide_false, Bool.not_true, Bool.or_false, Bool.true_and, Bool.false_and,
        Bool.false_eq_true, if_true, if_false, el3Rows_eq, hprio]
      rfl
    · simp only [reduceCtorEq, decide_true, decide_false, Bool.not_true, Bool.or_true, Bool.or_false, Bool.false_or,
        Bool.true_and, Bool.false_and, Bool.false_eq_true, if_true, if_false, el3Rows_eq, hprio]
      rfl
    · simp only [reduceCtorEq, decide_true, decide_false, Bool.not_true, Bool.or_true, Bool.or_false, Bool.false_or,
        Bool.true_and, Bool.false_and, Bool.false_eq_true, if_true, if_false]
      rfl

/-- Settles O13: the procedures test R56's conditions in its order, and past the check only a write while not Idle is refused. -/
theorem priorityOrder : Obligations.PriorityOrder := by
  intro d t s
  rw [firstOutcome_eq_accessCheck]
  refine ⟨fun f hf => exec_accessOf_of_some t hf, fun hc => ⟨fun hrun => ?_, ?_⟩⟩
  · obtain ⟨-, s', hx, -⟩ | ⟨⟨hd, hi, hw⟩, -⟩ := exec_accessOf_of_none t hc
    · exact ⟨s', hx⟩
    · simp [hd, hi, hw] at hrun
  · rintro ⟨rfl, hi, hw⟩
    exact exec_msr_refuse t hc hi hw

/-- Settles O14: the check's faults are the five, and past the check there are two ways on. -/
theorem outcomesOfAnAccess : Obligations.OutcomesOfAnAccess := by
  intro d t s
  cases hc : accessCheck d s with
  | none =>
    obtain ⟨-, hx⟩ | ⟨⟨hd, hi, hw⟩, hx⟩ := exec_accessOf_of_none t hc
    · exact .inl hx
    · exact .inr (.inr ⟨hd, (accessCheck_eq_none_iff d s).1 hc, hi, hw, hx⟩)
  | some f =>
    refine .inr (.inl ⟨f, ?_, exec_accessOf_of_some t hc⟩)
    simp only [List.mem_cons, List.not_mem_nil, or_false]
    exact accessCheck_fault hc

/-- Settles O15: an instruction completes past the check, a write while not Idle in the drawing machine only. -/
theorem accessCompletesExactlyWhen : Obligations.AccessCompletesExactlyWhen := by
  refine ⟨fun t s => ?_, fun t s => ?_, fun d t s hel => ?_⟩
  · rw [← accessCheck_eq_none_iff]
    exact ⟨fun ⟨_, hx⟩ => (execMrs_next hx).1, fun hc => ⟨_, exec_mrs_of_none t hc⟩⟩
  · rw [← accessCheck_eq_none_iff]
    constructor
    · rintro ⟨s', hx⟩
      obtain ⟨hc, ⟨hi, -⟩ | ⟨-, hw, -⟩⟩ := execMsr_next hx
      · exact ⟨hc, .inl hi⟩
      · exact ⟨hc, .inr hw⟩
    · rintro ⟨hc, hrun⟩
      obtain ⟨-, s', hx, -⟩ | ⟨⟨-, hi, hw⟩, -⟩ := exec_accessOf_of_none t hc
      · exact ⟨s', hx⟩
      · simp [hi, hw] at hrun
  · exact exec_accessOf_of_some t ((accessCheck_eq_some_iff d s _).2 (.inl ⟨.inr hel, rfl⟩))

/-! ### Inputs without influence -/

/-- Two states the check answers alike fault alike. -/
theorem exec_fault_congr {d : Direction} {s s' : State} (t : Nat) (f : Fault) (h : accessCheck d s' = accessCheck d s) :
    exec (accessOf d t) s' = .fault f ↔ exec (accessOf d t) s = .fault f := by
  simp only [exec_accessOf_eq_fault_iff, h]

theorem haltCondition_of_osLock {s : State} (h : s.controls.oslsrEl1Oslk = true) : haltCondition s = false := by
  simp only [haltCondition, h, Bool.not_true, Bool.and_false, Bool.false_and]

/-- Settles O16: with the OS Lock set the halt condition is false, whatever `EDSCR2.TTA` is. -/
theorem osLockPreventsHalt : Obligations.OsLockPreventsHalt := by
  intro d t s hlock
  refine ⟨fun hx => ?_, fun b f => exec_fault_congr t f ?_⟩
  · obtain ⟨-, ⟨-, hopen, -⟩, -⟩ := (haltExactlyWhen d t s).1 hx
    exact Bool.false_ne_true (hopen.symm.trans hlock)
  · have hhalt : haltCondition { s with controls := s.controls.set .edscr2Tta b } = haltCondition s := by
      rw [haltCondition_of_osLock hlock]
      exact haltCondition_of_osLock hlock
    simp only [accessCheck, checkEl1, checkEl2, checkEl3, hhalt]
    rfl

/-- Settles O17: each direction reads its own fine-grained control only. -/
theorem fineGrainedTrapsAreSeparate : Obligations.FineGrainedTrapsAreSeparate :=
  fun t _ _ f => ⟨exec_fault_congr (d := .read) t f rfl, exec_fault_congr (d := .write) t f rfl⟩

/-- Settles O18: the procedures at EL3 and at EL2 read none of the controls of a lower level. -/
theorem lowerControlsHaveNoInfluence : Obligations.LowerControlsHaveNoInfluence := by
  intro d t s f c e h3 hlock htta hel
  refine exec_fault_congr t f ?_
  obtain hel | ⟨hel, h2⟩ := hel
  · simp only [accessCheck, hel, checkEl3, haltCondition, h3, hlock, htta, Predicates.set]
    rfl
  · simp only [accessCheck, hel, checkEl2, el3Control, el3Outcome, haltCondition, h2, h3, hlock, htta, Predicates.set]
    rfl

/-- Settles O19: at EL1 the relations give the term the source leaves out, at EL2 and EL3 the procedure tests it. -/
theorem haltTermRedundantAtEl1 : Obligations.HaltTermRedundantAtEl1 := by
  intro d t s hin hx
  obtain ⟨-, -, ⟨hel, -⟩ | ⟨-, -, -, hA64⟩ | ⟨-, -, hA64⟩⟩ := (haltExactlyWhen d t s).1 hx
  · exact hin.el1IsAArch64 hel
  · exact hA64
  · exact hA64

end Sys2Proof.Claims
end

section
/-! PROOFS. The invariant at reset and over every step, and what it says of a register that is not present (R3, R5, R41). -/

namespace Sys2Proof.Claims

open Sys2Proof.Machine Sys2Proof.Safety

/-! ### The invariant over the shared operations -/

/-- The invariant looks at the parameters, the memory, the register and the outputs only. -/
theorem inv_congr {s s' : State} (h : Inv s) (hcfg : s'.cfg = s.cfg) (hmem : s'.mem = s.mem)
    (hreg : s'.trcvmidcctlr1 = s.trcvmidcctlr1) (hout : s'.vmidMatch = s.vmidMatch) : Inv s' := by
  constructor
  · exact hmem ▸ h.memoryCanonical
  · rw [hreg, hcfg]
    exact h.reservedClear
  · rw [hreg, hcfg]
    exact h.absentRegister
  · rw [hout, hcfg]
    exact h.absentComparator

theorem inv_agenda {s : State} (h : Inv s) (turns : List Turn) : Inv { s with agenda := turns } :=
  inv_congr h rfl rfl rfl rfl

/-- A write of the writable bits of a present register keeps the invariant, if it gives no output to an absent comparator. -/
theorem inv_of_write {s s' : State} (h : Inv s) (hp : present s.cfg = true) (hcfg : s'.cfg = s.cfg) (hmem : s'.mem = s.mem)
    (v : Reg) (hreg : s'.trcvmidcctlr1 = replaceWritable s v)
    (hout : ∀ n, comparatorPresent s.cfg n = false → s'.vmidMatch.get n = none) : Inv s' := by
  constructor
  · exact hmem ▸ h.memoryCanonical
  · rw [hreg, hcfg, replaceWritable_reserved]
    exact h.reservedClear
  · rw [hcfg, hp]
    exact nofun
  · rw [hcfg]
    exact hout

theorem inv_writeIdle {s : State} (h : Inv s) (hp : present s.cfg = true) (v : Reg) : Inv (writeIdle v s) :=
  inv_of_write h hp rfl rfl v rfl h.absentComparator

/-- The output of comparator `n` after a write made while not Idle (R41, R47). -/
theorem writeNotIdle_vmidMatch_get (s : State) (n : Comparator) : (writeNotIdle s).vmidMatch.get n =
    if comparatorPresent s.cfg n then some (Config.freeBit (s.draws + (comparatorNumber n - 4))) else none := by
  cases n <;> rfl

theorem inv_writeNotIdle {s : State} (h : Inv s) (hp : present s.cfg = true) : Inv (writeNotIdle s) :=
  inv_of_write h hp rfl rfl (nextWord s) rfl fun n hn => by
    rw [writeNotIdle_vmidMatch_get, hn, if_neg Bool.false_ne_true]

theorem inv_powerEvent {s : State} (h : Inv s) : Inv (powerEvent s) := by
  cases hp : present s.cfg with
  | false => rwa [powerEvent_of_absent hp]
  | true =>
    rw [powerEvent_of_present hp]
    exact inv_of_write h hp rfl rfl (nextWord s) rfl h.absentComparator

/-- An output given to an implemented comparator keeps the invariant (R41). -/
theorem inv_setOutput {s : State} (h : Inv s) {n : Comparator} (hn : comparatorPresent s.cfg n = true) (b : Bool) :
    Inv { s with vmidMatch := s.vmidMatch.set n (some b) } := by
  refine ⟨h.memoryCanonical, h.reservedClear, h.absentRegister, fun k hk => ?_⟩
  have hne : k ≠ n := ne_of_apply_ne (comparatorPresent s.cfg) (by rw [hk, hn]; exact Bool.false_ne_true)
  exact (PerComparator.get_set_ne _ _ hne).trans (h.absentComparator k hk)

theorem inv_of_inputFrame {e : Event} {s s' : State} (h : Inv s) (hf : InputFrame e s s') : Inv s' := by
  obtain ⟨a, b, -, hmem⟩ | hmem := hf.mem
  · have hstored : Inv { s with mem := s.mem.write a.toNat b } :=
      ⟨Memory.write_wf h.memoryCanonical a.isLt b, h.reservedClear, h.absentRegister, h.absentComparator⟩
    exact inv_congr hstored hf.cfg hmem hf.trcvmidcctlr1 hf.vmidMatch
  · exact inv_congr h hf.cfg hmem hf.trcvmidcctlr1 hf.vmidMatch

/-! ### Over instructions, events and steps -/

theorem inv_exec {i : Instr} {s s' : State} (h : Inv s) (hx : exec i s = .next s') : Inv s' := by
  obtain ⟨hp, -, ⟨t, -, rfl⟩ | ⟨t, -, ⟨-, rfl⟩ | ⟨-, -, rfl⟩⟩⟩ := exec_next hx
  · exact inv_congr h (by simp) (by simp) (by simp) (by simp)
  · exact inv_congr (inv_writeIdle h hp _) rfl rfl rfl rfl
  · exact inv_congr (inv_writeNotIdle h hp) rfl rfl rfl rfl

theorem inv_runEvent {e : Event} {s s' : State} (h : Inv s) (he : runEvent e s = .next s') : Inv s' := by
  obtain ⟨-, hf⟩ | ⟨n, -, -, hn, rfl⟩ | ⟨-, -, rfl⟩ | ⟨v, -, hp, ⟨-, rfl⟩ | ⟨-, -, rfl⟩⟩ | ⟨-, rfl⟩ := runEvent_next he
  · exact inv_of_inputFrame h hf
  · exact inv_congr (inv_setOutput h hn _) rfl rfl rfl rfl
  · exact inv_congr h rfl rfl rfl rfl
  · exact inv_writeIdle h hp _
  · exact inv_writeNotIdle h hp
  · exact inv_powerEvent h

/-- Settles O52: every instruction and every event keeps the invariant. -/
theorem stepKeepsInv : Obligations.StepKeepsInv := by
  intro s s' h hstep
  obtain ⟨i, -, -, hx⟩ | ⟨e, rest, -, he⟩ := step_next hstep
  · exact inv_exec (inv_agenda h _) hx
  · exact inv_runEvent (inv_agenda h rest) he

/-- Settles O51: the draw at reset is held under `WritableMask`, and nothing is in memory or on an output. -/
theorem resetInv : Obligations.ResetInv := by
  have hreset (c : Config) : Inv (State.resetWith c) := by
    refine ⟨resetWith_mem_wf c, ?_, fun hp => ?_, fun n _ => by cases n <;> rfl⟩
    · change (if present c then Config.resetMask &&& writableMask c else 0#64) &&& ~~~writableMask c = 0#64
      split
      · rw [BitVec.and_assoc, BitVec.and_not_self]
        exact BitVec.and_zero
      · exact BitVec.zero_and
    · exact if_neg (Bool.eq_false_iff.1 hp)
  exact ⟨hreset Config.full, hreset⟩

/-! ### Presence (R3, D8) -/

theorem present_iff (c : Config) : present c = true ↔
    c.featEte = true ∧ c.sysRegTrace = true ∧ c.numVmidc > 4 ∧ c.vmidSize > 0 := by
  simp only [present, Bool.and_eq_true, decide_eq_true_eq, and_assoc]

/-- Settles O5: presence is a matter of the parameters alone, and all that writes the register needs it. -/
theorem presenceIsFixed : Obligations.PresenceIsFixed := by
  refine ⟨present_iff, fun d t s hp => ?_, fun s h => h.absentRegister, fun s s' hstep => ⟨?_, fun hp => ?_⟩⟩
  · exact (undefinedExactlyWhen d t s).2 (.inl hp)
  · rw [stepKeepsParameters s s' hstep]
  · by_contra hne
    exact Bool.false_ne_true (hp.symm.trans (step_next_register hstep hne).1)

end Sys2Proof.Claims
end

section
/-! PROOFS. The fetch, the PE's turn and an instruction placed where the next step fetches (logs 20, 25, 26). -/

namespace Sys2Proof.Claims

open Sys2Proof.Machine

/-! ### The fetch (R32, log 25) -/

theorem fetchInstr_of_decode {s : State} {bs rest : List Byte} {i : Instr} (hb : fetchBytes s = some bs)
    (hd : decode bs = .ok (i, rest)) : fetchInstr s = .next i := by
  simp only [fetchInstr, hb, hd]

theorem fetchInstr_of_notThisRegister {s : State} {bs : List Byte} {w : Word} (hb : fetchBytes s = some bs)
    (hd : decode bs = .error (.notThisRegister w)) : fetchInstr s = .refused (.notThisRegister w) := by
  simp only [fetchInstr, hb, hd]

theorem fetchBytes_of_read_none {s : State} (h : s.mem.read s.pc.toNat = none) : fetchBytes s = none := by
  simp only [fetchBytes, fetchByte, h]

/-- The fetch does not look at the agenda. -/
theorem fetchInstr_agenda (s : State) (turns : List Turn) : fetchInstr { s with agenda := turns } = fetchInstr s := rfl

/-- The PE's step is the instruction it fetches. -/
theorem step_of_fetchInstr {s : State} {i : Instr} (hpe : peMovesNext s = true) (hf : fetchInstr s = .next i) :
    step s = exec i { s with agenda := s.agenda.tail } :=
  (step_of_peMovesNext hpe).trans (stepPe_of_fetchInstr hf)

/-- Settles O46: four bytes that decode are the instruction the PE fetches. -/
theorem stepRunsTheDecodedInstruction : Obligations.StepRunsTheDecodedInstruction :=
  fun _ _ _ _ _ _ _ hpe h0 h1 h2 h3 hd =>
    step_of_fetchInstr hpe (fetchInstr_of_decode (fetchBytes_of_read h0 h1 h2 h3) hd)

/-- A word outside the one mask that both rows share is refused (R32). -/
theorem decodeWord_of_ne {w : Word} (h : w &&& 0xFFDFFFE0#32 ≠ 0xD5113340#32) :
    decodeWord w = .error (.notThisRegister w) := by
  have hmask : w &&& 0xFFDFFFE0#32 = (w &&& 0xFFFFFFE0#32) &&& 0xFFDFFFE0#32 := by
    rw [BitVec.and_assoc, show 0xFFFFFFE0#32 &&& 0xFFDFFFE0#32 = 0xFFDFFFE0#32 by decide]
  obtain hd | hd | hd := decodeWord_cases w
  · exact absurd (by rw [hmask, (rowMatch_mrs_iff w).2 hd]; decide) h
  · exact absurd (by rw [hmask, (rowMatch_msr_iff w).2 hd]; decide) h
  · exact hd

/-- Settles O47: the fetch refuses a word that is neither row's, and faults where nothing was written. -/
theorem stepStopsOnOtherWords : Obligations.StepStopsOnOtherWords := by
  intro s hpe
  refine ⟨fun b0 b1 b2 b3 h0 h1 h2 h3 hw => ?_, fun h0 => ?_⟩
  · have hd : decode [b0, b1, b2, b3] = .error (.notThisRegister (wordOfBytes b0 b1 b2 b3)) := by
      simp only [decode, decodeWord_of_ne hw]
    have hf := fetchInstr_of_notThisRegister (fetchBytes_of_read h0 h1 h2 h3) hd
    rw [step_of_peMovesNext hpe, stepPe, fetchInstr_agenda, hf]
  · have hf : fetchInstr s = .fault .instructionUnavailable := by
      simp only [fetchInstr, fetchBytes_of_read_none h0]
    rw [step_of_peMovesNext hpe, stepPe, fetchInstr_agenda, hf]

/-- Settles O48: the turn at the head of the agenda is the one that runs. -/
theorem stepRunsTheEvent : Obligations.StepRunsTheEvent := by
  intro s e rest ha
  simp only [step, ha, runTurn]

/-! ### A placed instruction (log 26) -/

theorem peMovesNext_placeBytes (s : State) (bs : List Byte) : peMovesNext (placeBytes s bs) = true := by
  unfold placeBytes
  split
  · assumption
  · rfl

theorem decode_of_decodeTableWord {nbits w : Nat} {i : Instr} (h : decodeTableWord nbits w = some i) :
    ∃ rest, decode (bytesOfWord (tableWord nbits w)) = .ok (i, rest) := by
  unfold decodeTableWord at h
  split at h
  · rename_i rest hd
    cases h
    exact ⟨rest, hd⟩
  · cases h

/-- The step after an instruction is placed executes it, on a state that differs in memory and agenda only. -/
theorem step_withFetchWord {s : State} {nbits w : Nat} {i : Instr} (h : decodeTableWord nbits w = some i) :
    step (s.withFetchWord nbits w) = exec i { s with
      mem := (s.withFetchWord nbits w).mem, agenda := (s.withFetchWord nbits w).agenda.tail } := by
  obtain ⟨rest, hd⟩ := decode_of_decodeTableWord h
  exact step_of_fetchInstr (peMovesNext_placeBytes _ _) (fetchInstr_of_decode (fetchBytes_placeBytes _ _ _ _ _) hd)

/-- Settles O49: the placed bytes are those the next step fetches. -/
theorem placedInstructionRuns : Obligations.PlacedInstructionRuns :=
  fun _ _ _ h => ⟨_, step_withFetchWord h, rfl, rfl⟩

/-- No control is set at reset, so neither access is stopped at the highest level. -/
theorem accessCheck_reset (d : Direction) : accessCheck d State.reset = none := by
  cases d <;> rfl

/-- Settles O50: right after reset the check passes and the trace unit is Idle. -/
theorem firstInstructionAfterResetCompletes : Obligations.FirstInstructionAfterResetCompletes := by
  intro w i h
  rw [step_withFetchWord h]
  cases i with
  | mrs t => exact ⟨_, exec_mrs_of_none t (accessCheck_reset .read), by
    simp only [State.advancePc_pc, State.advanceDraws_pc, writeX_pc]; rfl, by simp, by simp⟩
  | msr t => exact ⟨_, exec_msr_idle t (accessCheck_reset .write) rfl, rfl, rfl, rfl⟩

end Sys2Proof.Claims
end

section
/-! PROOFS. `WritableMask` bit by bit (R7, R8) and what reads and writes under it move (R5, R45, R46). -/

namespace Sys2Proof.Claims

open Sys2Proof.Machine

/-! ### `WritableMask` (R8, D2, D3) -/

theorem getLsbD_writableMask_sourceOnly {c : Config} (h : c.maskReading = .sourceOnly) (i : Nat) :
    (writableMask c).getLsbD i = decide (i < 32) := by
  have hlow : 0x00000000FFFFFFFF#64 = (BitVec.allOnes 32).setWidth 64 := by decide
  simp only [writableMask, h, hlow, BitVec.getLsbD_setWidth, BitVec.getLsbD_allOnes]
  by_cases hi : i < 32
  · simp only [hi, hi.trans (by decide : 32 < 64), decide_true, Bool.and_self]
  · simp only [hi, decide_false, Bool.and_false]

/-- The one term of R8's formula that can set bit `i` is that of comparator `4 + i/8` and byte `i mod 8`. -/
theorem getLsbD_writableMask_implemented {c : Config} (h : c.maskReading = .implemented) (i : Nat) :
    (writableMask c).getLsbD i = decide (i < 32 ∧ c.numVmidc > 4 + i / 8 ∧ i % 8 < c.vmidSize) := by
  by_cases hi : i < 32
  · rw [Bool.eq_iff_iff]
    simp only [writableMask, h, getLsbD_foldr_or, List.any_eq_true, decide_eq_true_eq, hi, true_and,
      getLsbD_writableBit c _ _ i (hi.trans (by decide)), Bool.and_eq_true]
    constructor
    · rintro ⟨⟨n, m⟩, hp, ⟨hn, hm⟩, hidx⟩
      obtain ⟨⟨hn4, -⟩, hm8⟩ := mem_maskBits.1 hp
      obtain ⟨rfl, rfl⟩ := (maskBitIndex_eq_iff hn4 hm8).1 hidx.symm
      exact ⟨hn, hm⟩
    · rintro ⟨hn, hm⟩
      have hm8 : i % 8 < 8 := Nat.mod_lt i (by decide)
      exact ⟨(4 + i / 8, i % 8), mem_maskBits.2 ⟨by omega, hm8⟩, ⟨hn, hm⟩,
        ((maskBitIndex_eq_iff (Nat.le_add_right 4 _) hm8).2 ⟨rfl, rfl⟩).symm⟩
  · rw [getLsbD_writableMask_of_ge c (not_lt.1 hi)]
    simp only [hi, false_and, decide_false]

/-- Settles O6: R8's formula under each of its two readings. -/
theorem writableMaskBits : Obligations.WritableMaskBits := by
  intro c i
  cases h : c.maskReading with
  | implemented => exact getLsbD_writableMask_implemented h i
  | sourceOnly => exact getLsbD_writableMask_sourceOnly h i

/-- Settles O7: the comparator's bit is the register's under the mask, which has all of bits [31:0] under the second reading. -/
theorem fieldLayout : Obligations.FieldLayout := by
  intro s n m hm
  refine ⟨ignored_eq_maskBit s n hm, fun h => getLsbD_comp_of_writable s n hm ?_⟩
  rw [getLsbD_writableMask_sourceOnly h, decide_eq_true (maskBitIndex_lt (comparatorNumber_le n) hm)]

/-! ### Reading and writing under the mask (R5, R45, R46) -/

theorem getLsbD_res0Bits (s : State) (i : Nat) : (res0Bits s).getLsbD i = res0Bit s i := by
  cases h : s.cfg.res0Read <;> simp [res0Bits, res0Bit, nextWord, h]

theorem getLsbD_readValue (s : State) {i : Nat} (hi : i < 64) : (readValue s).getLsbD i =
    if (writableMask s.cfg).getLsbD i then s.trcvmidcctlr1.getLsbD i else res0Bit s i := by
  rw [readValue, getLsbD_select _ _ _ i hi, getLsbD_res0Bits]

theorem getLsbD_replaceWritable (s : State) (v : Reg) {i : Nat} (hi : i < 64) : (replaceWritable s v).getLsbD i =
    if (writableMask s.cfg).getLsbD i then v.getLsbD i else s.trcvmidcctlr1.getLsbD i :=
  getLsbD_replace _ _ _ i hi

theorem getLsbD_replaceWritable_of_writable (s : State) (v : Reg) {i : Nat} (hi : i < 64)
    (hw : (writableMask s.cfg).getLsbD i = true) : (replaceWritable s v).getLsbD i = v.getLsbD i := by
  rw [getLsbD_replaceWritable s v hi, if_pos hw]

theorem getLsbD_replaceWritable_of_reserved (s : State) (v : Reg) {i : Nat} (hi : i < 64)
    (hw : (writableMask s.cfg).getLsbD i = false) : (replaceWritable s v).getLsbD i = s.trcvmidcctlr1.getLsbD i := by
  rw [getLsbD_replaceWritable s v hi, hw, if_neg Bool.false_ne_true]

theorem getLsbD_readValue_of_writable (s : State) {i : Nat} (hi : i < 64)
    (hw : (writableMask s.cfg).getLsbD i = true) : (readValue s).getLsbD i = s.trcvmidcctlr1.getLsbD i := by
  rw [getLsbD_readValue s hi, if_pos hw]

/-- A read after a write finds the written bit wherever the register is writable (R24). -/
theorem getLsbD_readValue_writeIdle (v : Reg) (s : State) {i : Nat} (hi : i < 64)
    (hw : (writableMask s.cfg).getLsbD i = true) : (readValue (writeIdle v s)).getLsbD i = v.getLsbD i := by
  rw [getLsbD_readValue_of_writable (writeIdle v s) hi hw, writeIdle_trcvmidcctlr1,
    getLsbD_replaceWritable_of_writable s v hi hw]

theorem getLsbD_externalView (s : State) {i : Nat} (hi : i < 32) :
    (externalView s).getLsbD i = (readValue s).getLsbD i := by
  simp only [externalView, BitVec.getLsbD_setWidth, hi, decide_true, Bool.true_and]

/-- The value an external write has in bits [63:32] is 0 (R22). -/
theorem getLsbD_externalValue (v : BitVec 32) {i : Nat} (hi : i < 64) : (v.setWidth 64).getLsbD i = v.getLsbD i := by
  simp only [BitVec.getLsbD_setWidth, hi, decide_true, Bool.true_and]

/-! ### The states the instructions answer -/

/-- The state after a completed `MRS` (R43, R45). -/
def afterMrs (t : Nat) (s : State) : State :=
  { s with x := if h : t < 31 then s.x.set t (readValue s) else s.x, pc := s.pc + 4#64, draws := s.draws + 1 }

theorem afterMrs_eq (t : Nat) (s : State) :
    ((writeX s t (readValue s)).advanceDraws 1).advancePc = afterMrs t s := by
  unfold afterMrs writeX
  split <;> rfl

/-- If `MRS` answers a next state, the check passed and this is the state. -/
theorem execMrs_next_afterMrs {t : Nat} {s s' : State} (h : execMrs t s = .next s') :
    accessCheck .read s = none ∧ s' = afterMrs t s := by
  obtain ⟨hc, hs⟩ := execMrs_next h
  exact ⟨hc, hs.trans (afterMrs_eq t s)⟩

theorem exec_mrs_afterMrs {s : State} (t : Nat) (h : accessCheck .read s = none) :
    exec (.mrs t) s = .next (afterMrs t s) := by
  rw [exec_mrs_of_none t h, afterMrs_eq]

theorem readX_afterMrs_same (s : State) {t : Nat} (h : t < 31) : readX (afterMrs t s) t = readValue s := by
  rw [← afterMrs_eq]
  exact readX_writeX_same s _ h

theorem readX_afterMrs_ne (s : State) {t u : Nat} (h : u ≠ t) : readX (afterMrs t s) u = readX s u := by
  rw [← afterMrs_eq]
  exact readX_writeX_ne s _ h

/-- What a completed `MRS` leaves in its register (R45). -/
theorem readX_of_execMrs {t : Nat} (ht : t < 31) {s s' : State} (h : execMrs t s = .next s') : readX s' t = readValue s := by
  obtain ⟨-, rfl⟩ := execMrs_next_afterMrs h
  exact readX_afterMrs_same s ht

/-- If `MSR` answers a next state while Idle, this is the state (R46). -/
theorem execMsr_next_idle {t : Nat} {s s' : State} (hi : s.idle = true) (h : execMsr t s = .next s') :
    s' = (writeIdle (readX s t) s).advancePc := by
  obtain ⟨-, ⟨-, hs⟩ | ⟨hi', -⟩⟩ := execMsr_next h
  · exact hs
  · exact absurd (hi'.symm.trans hi) Bool.false_ne_true

/-! ### `MRS` and `MSR` (41_mrs_msr_access.md section 4) -/

/-- Settles O20: past the check `MRS` reads the register under the mask into `x[t]`. -/
theorem mrsCompletes : Obligations.MrsCompletes := by
  intro s t _ hperm
  refine ⟨afterMrs t s, exec_mrs_afterMrs t ((accessCheck_eq_none_iff _ s).2 hperm), fun ht i hi => ?_, ?_,
    fun u hu => readX_afterMrs_ne s hu, rfl⟩
  · rw [readX_afterMrs_same s ht, getLsbD_readValue s hi]
  · rintro rfl
    rfl

/-- The value `MSR` writes, with the zero register written out (R30). -/
theorem getLsbD_readX (s : State) (t i : Nat) :
    (readX s t).getLsbD i = (t != 31 && (readX s t).getLsbD i) := by
  by_cases h : t = 31
  · simp [h, readX_zeroRegister s (Nat.le_refl 31)]
  · simp [h]

/-- Settles O21: past the check, while Idle, `MSR` replaces the writable bits by those of `x[t]`. -/
theorem msrCompletesWhileIdle : Obligations.MsrCompletesWhileIdle := by
  intro s t _ hperm hi
  refine ⟨_, exec_msr_idle t ((accessCheck_eq_none_iff _ s).2 hperm) hi, fun i hi64 => ?_, rfl⟩
  rw [← getLsbD_readX]
  exact getLsbD_replaceWritable s _ hi64

/-- Settles O22: past the check, while not Idle, the drawing machine replaces the writable bits by a free value's. -/
theorem msrWhileNotIdleDraws : Obligations.MsrWhileNotIdleDraws :=
  fun s t hperm hi hw => ⟨_, exec_msr_draw t ((accessCheck_eq_none_iff _ s).2 hperm) hi hw,
    fun _ hi64 => getLsbD_replaceWritable s _ hi64, writeNotIdle_vmidMatch_get s, rfl⟩

/-- Settles O24: neither the check for a read nor the value read depends on the Idle input. -/
theorem readsIgnoreIdle : Obligations.ReadsIgnoreIdle := by
  intro s s' t b h
  obtain ⟨hc, rfl⟩ := execMrs_next_afterMrs h
  exact exec_mrs_afterMrs t hc

/-- Settles O27: the check, the value read and the value written do not depend on the memory. -/
theorem accessesIgnoreMemory : Obligations.AccessesIgnoreMemory := by
  intro d t s m
  refine ⟨fun f => (exec_fault_congr (s := s) (s' := { s with mem := m }) t f rfl).2, fun s' h => ?_⟩
  cases d with
  | read =>
    obtain ⟨hc, rfl⟩ := execMrs_next_afterMrs h
    exact exec_mrs_afterMrs t hc
  | write =>
    obtain ⟨hc, ⟨hi, rfl⟩ | ⟨hi, hw, rfl⟩⟩ := execMsr_next h
    · exact exec_msr_idle t hc hi
    · exact exec_msr_draw t hc hi hw

/-- Settles O25: `writeX`, the counter and the pc leave every other field as it was. -/
theorem mrsFrame : Obligations.MrsFrame := by
  intro t s s' h
  obtain ⟨-, rfl⟩ := execMrs_next_afterMrs h
  refine ⟨⟨rfl, rfl, rfl, rfl, rfl, rfl, rfl⟩, rfl, rfl, rfl, rfl, rfl, fun u hu => readX_afterMrs_ne s hu, ?_, fun _ => rfl⟩
  rintro rfl
  rfl

/-- Settles O26: a write of either kind leaves every input and every bit that is not writable. -/
theorem msrFrame : Obligations.MsrFrame := by
  intro t s s' h
  have hkept (v : Reg) (i : Nat) := getLsbD_replaceWritable_of_reserved s v (i := i)
  obtain ⟨-, ⟨-, rfl⟩ | ⟨hi, -, rfl⟩⟩ := execMsr_next h
  · exact ⟨⟨rfl, rfl, rfl, rfl, rfl, rfl, rfl⟩, rfl, rfl, rfl, hkept _, fun _ => ⟨rfl, rfl⟩, fun _ => rfl⟩
  · exact ⟨⟨rfl, rfl, rfl, rfl, rfl, rfl, rfl⟩, rfl, rfl, rfl, hkept _,
      fun hi' => absurd (hi.symm.trans hi') Bool.false_ne_true, fun _ => rfl⟩

/-- Settles O28: the read sees the register the write left, and both move the writable bits unchanged. -/
theorem mrsAfterMsrReturnsTheValue : Obligations.MrsAfterMsrReturnsTheValue := by
  intro s s1 s2 t u hidle hu hwrite hread i hi hw
  obtain rfl := execMsr_next_idle hidle hwrite
  rw [readX_of_execMrs hu hread]
  exact getLsbD_readValue_writeIdle _ s hi hw

/-- Replacing the writable bits a second time by the same value changes nothing. -/
theorem replaceWritable_idem {s s' : State} {v : Reg} (hcfg : s'.cfg = s.cfg)
    (hreg : s'.trcvmidcctlr1 = replaceWritable s v) : replaceWritable s' v = replaceWritable s v := by
  apply BitVec.eq_of_getLsbD_eq
  intro i hi
  rw [getLsbD_replaceWritable s' v hi, hreg, hcfg, getLsbD_replaceWritable s v hi]
  split <;> rfl

/-- After a completed write, writing the same value again changes nothing. -/
theorem writeIdle_again (v : Reg) (s : State) : writeIdle v (writeIdle v s).advancePc = (writeIdle v s).advancePc := by
  have hreg : replaceWritable (writeIdle v s).advancePc v = replaceWritable s v := replaceWritable_idem rfl rfl
  calc writeIdle v (writeIdle v s).advancePc
      = { (writeIdle v s).advancePc with trcvmidcctlr1 := replaceWritable (writeIdle v s).advancePc v } := rfl
    _ = { (writeIdle v s).advancePc with trcvmidcctlr1 := replaceWritable s v } := by rw [hreg]
    _ = (writeIdle v s).advancePc := rfl

/-- Settles O29: the second write finds the writable bits as it would leave them. -/
theorem sameWriteTwice : Obligations.SameWriteTwice := by
  intro s s1 s2 t hidle h1 h2
  obtain rfl := execMsr_next_idle hidle h1
  have hs2 := execMsr_next_idle (s := (writeIdle (readX s t) s).advancePc) hidle h2
  exact hs2.trans (congrArg State.advancePc (writeIdle_again (readX s t) s))

end Sys2Proof.Claims
end

section
/-! PROOFS. The external view of the register, the writers one after the other, and a power event (R10, R22, R25, R47, R62). -/

namespace Sys2Proof.Claims

open Sys2Proof.Machine

/-! ### The external agent's accesses, where the register is present (R22) -/

theorem runEvent_externalRead {s : State} (hp : present s.cfg = true) : runEvent .externalRead s =
    .next { s with externalData := some (externalView s), draws := s.draws + 1 } := by
  simp only [runEvent, externalRead, hp, Bool.not_true, Bool.false_eq_true, if_false]
  rfl

theorem runEvent_externalWrite {s : State} (hp : present s.cfg = true) (v : BitVec 32) :
    runEvent (.externalWrite v) s = writeValue (v.setWidth 64) s := by
  simp only [runEvent, externalWrite, hp, Bool.not_true, Bool.false_eq_true, if_false]

/-- If an external write answers a next state while Idle, this is the state (R22, R46). -/
theorem externalWrite_next_idle {v : BitVec 32} {s s' : State} (hi : s.idle = true)
    (h : runEvent (.externalWrite v) s = .next s') : s' = writeIdle (v.setWidth 64) s := by
  obtain ⟨-, ⟨-, hs⟩ | ⟨hi', -⟩⟩ := externalWrite_next h
  · exact hs
  · exact absurd (hi'.symm.trans hi) Bool.false_ne_true

/-- Settles O31: the external read moves the low half of what `MRS` reads. -/
theorem externalReadReturns : Obligations.ExternalReadReturns := by
  intro s hp
  refine ⟨_, externalView s, runEvent_externalRead hp, rfl, fun i hi => ?_, rfl⟩
  rw [getLsbD_externalView s hi, getLsbD_readValue s (hi.trans (by decide))]

/-- Settles O32: while Idle the external write replaces the writable bits. -/
theorem externalWriteWhileIdle : Obligations.ExternalWriteWhileIdle := by
  intro s v hp hi
  refine ⟨_, (runEvent_externalWrite hp v).trans (if_pos hi), fun i hi64 => ?_, rfl⟩
  rw [← getLsbD_externalValue v hi64]
  exact getLsbD_replaceWritable s _ hi64

/-- Settles O33: while not Idle the drawing machine replaces the writable bits by a free value's, through this view too. -/
theorem externalWriteWhileNotIdleDraws : Obligations.ExternalWriteWhileNotIdleDraws := by
  intro s v hp hi hw
  have hx : writeValue (v.setWidth 64) s = .next (writeNotIdle s) := by
    simp only [writeValue, hi, hw, Bool.false_eq_true, if_false]
  exact ⟨_, (runEvent_externalWrite hp v).trans hx, fun _ hi64 => getLsbD_replaceWritable s _ hi64,
    writeNotIdle_vmidMatch_get s, rfl⟩

/-- Settles O23: both views write through `WriteValue`, which the refusing machine refuses; a read does not. -/
theorem writeWhileNotIdleRefused : Obligations.WriteWhileNotIdleRefused := by
  intro s t v hi hw
  refine ⟨fun hperm => exec_msr_refuse t ((accessCheck_eq_none_iff _ s).2 hperm) hi hw, fun hp => ?_,
    fun hperm => ⟨_, exec_mrs_afterMrs t ((accessCheck_eq_none_iff _ s).2 hperm)⟩⟩
  rw [runEvent_externalWrite hp, writeValue, hi, hw, if_neg Bool.false_ne_true]

/-! ### One storage, two views (R10, R25) -/

/-- Settles O30: each view reads the register the other one wrote. -/
theorem oneStorageTwoViews : Obligations.OneStorageTwoViews := by
  refine ⟨fun s s1 s2 v t hidle ht h1 h2 i hi hw => ?_, fun s s1 s2 t hidle h1 h2 => ?_⟩
  · have hi64 : i < 64 := hi.trans (by decide)
    obtain rfl := externalWrite_next_idle hidle h1
    rw [readX_of_execMrs ht h2, ← getLsbD_externalValue v hi64]
    exact getLsbD_readValue_writeIdle _ s hi64 hw
  · obtain rfl := execMsr_next_idle hidle h1
    obtain ⟨-, rfl⟩ := externalRead_next h2
    refine ⟨_, rfl, fun i hi hw => ?_⟩
    rw [getLsbD_externalView _ hi]
    exact getLsbD_readValue_writeIdle _ s (hi.trans (by decide)) hw

/-- Settles O34: the second write replaces every writable bit, whichever view it comes through. -/
theorem lastWriterWins : Obligations.LastWriterWins := by
  intro s s1 s2 v t hidle
  refine ⟨fun h1 h2 i hi hw => ?_, fun h1 h2 i hi hw => ?_⟩
  · obtain rfl := execMsr_next_idle hidle h1
    obtain rfl := externalWrite_next_idle (s := (writeIdle (readX s t) s).advancePc) hidle h2
    rw [← getLsbD_externalValue v hi]
    exact getLsbD_replaceWritable_of_writable _ _ hi hw
  · obtain rfl := externalWrite_next_idle hidle h1
    obtain rfl := execMsr_next_idle (s := writeIdle (v.setWidth 64) s) hidle h2
    exact getLsbD_replaceWritable_of_writable _ _ hi hw

/-! ### Power (R62, D24) -/

/-- After a power event the mask does not count as written. -/
theorem originAfterPower_ne_written (o : MaskOrigin) : originAfterPower o ≠ .written := by
  cases o <;> exact nofun

/-- Settles O35: a power event replaces the writable bits by a free value's. -/
theorem powerEventUnspecifiesTheMask : Obligations.PowerEventUnspecifiesTheMask :=
  fun s hp => ⟨_, congrArg Host.Outcome.next (powerEvent_of_present hp),
    fun _ hi => getLsbD_replaceWritable s _ hi, originAfterPower_ne_written s.maskOrigin, rfl⟩

end Sys2Proof.Claims
end

section
/-! PROOFS. The comparison of one comparator: when its rule applies, when it is a free bit, what it depends on (R33 to R41, R65). -/

namespace Sys2Proof.Claims

open Sys2Proof.Machine

/-! ### The turn (R33, R41) -/

/-- The comparison of an implemented comparator stores `VmidMatch(n)` in its output and changes nothing else. -/
theorem runEvent_compare {s : State} {n : Comparator} (hp : present s.cfg = true) (hn : comparatorPresent s.cfg n = true) :
    runEvent (.compare n) s =
      .next { s with vmidMatch := s.vmidMatch.set n (some (vmidMatchValue s n)), draws := s.draws + 1 } := by
  simp only [runEvent, runComparison, hp, hn, Bool.not_true, Bool.false_eq_true, if_false]
  rfl

theorem comparatorPresent_eq_false_iff (c : Config) (n : Comparator) :
    comparatorPresent c n = false ↔ c.numVmidc ≤ comparatorNumber n := by
  simp only [comparatorPresent, decide_eq_false_iff_not, gt_iff_lt, not_lt]

/-- Comparator 4 of a present register is implemented (R3, R40). -/
theorem comparatorPresent_c4 {c : Config} (hp : present c = true) : comparatorPresent c .c4 = true := by
  obtain ⟨-, -, hnum, -⟩ := (present_iff c).1 hp
  exact decide_eq_true hnum

/-- Settles O45: the turn tests the comparator before anything else of it, and comparator 4 passes the test. -/
theorem absentComparatorIsRefused : Obligations.AbsentComparatorIsRefused := by
  intro s n hp
  refine ⟨fun hle => ?_, _, runEvent_compare hp (comparatorPresent_c4 hp)⟩
  have hn := (comparatorPresent_eq_false_iff s.cfg n).2 hle
  refine ⟨?_, fun v => ?_⟩
  · simp only [runEvent, runComparison, hp, hn, Bool.not_true, Bool.not_false, Bool.false_eq_true, if_false, if_true]
  · simp only [runEvent, setValueRegister, hn, Bool.false_eq_true, if_false]

/-! ### The table of 40_comparator_mask.md section 4 -/

theorem matchDefined_iff (s : State) (n : Comparator) :
    MatchDefined s n ↔ s.maskOrigin ≠ .unpredictable ∧ maskWellFormed s n = true := by
  rw [maskWellFormedMeans s n, MatchDefined]

/-- With an included byte, the result is the conjunction of R35. -/
theorem vmidMatchValue_of_included {s : State} {n : Comparator} (h : MatchDefined s n) (hc : comp s n ≠ 0xFF#8) :
    vmidMatchValue s n = includedBytesEqual s n := by
  obtain ⟨ho, hwf⟩ := (matchDefined_iff s n).1 h
  simp only [vmidMatchValue, ho, hwf, hc, Bool.not_true, Bool.false_eq_true, if_false]

/-- Outside the rule the result is a free bit (R39, R47). -/
theorem vmidMatchValue_of_not_matchDefined {s : State} {n : Comparator} (h : ¬ MatchDefined s n) :
    vmidMatchValue s n = Config.freeBit s.draws := by
  rw [matchDefined_iff, not_and_or, not_not, Bool.not_eq_true] at h
  obtain ho | hwf := h
  · simp only [vmidMatchValue, ho, if_true, nextBit, Nat.add_zero]
  · simp only [vmidMatchValue, hwf, Bool.not_false, if_true, nextBit, Nat.add_zero, ite_self]

/-- With all eight bytes ignored the result is that of the machine's parameter (R36). -/
theorem vmidMatchValue_of_allIgnored {s : State} {n : Comparator} (h : MatchDefined s n) (hc : comp s n = 0xFF#8) :
    (s.cfg.allIgnored = .matches → vmidMatchValue s n = true) ∧
    (s.cfg.allIgnored = .draw → vmidMatchValue s n = Config.freeBit s.draws) := by
  obtain ⟨ho, hwf⟩ := (matchDefined_iff s n).1 h
  constructor <;> intro hp <;>
    simp only [vmidMatchValue, ho, hwf, hc, hp, Bool.not_true, Bool.false_eq_true, if_false, if_true, nextBit, Nat.add_zero]

/-- Settles O38: where the rule applies and some byte is included, the turn stores the conjunction of R35. -/
theorem comparisonUnderTheDuties : Obligations.ComparisonUnderTheDuties := by
  refine ⟨fun s n hn ⟨ho, hwf⟩ => ?_, fun s n hp hn hdef hc => ?_⟩
  · exact (matchDefined_iff s n).2 ⟨by rw [ho]; exact nofun, hwf n hn⟩
  · refine ⟨_, _, runEvent_compare hp hn, PerComparator.get_set_same _ n _, ?_,
      fun k hk => PerComparator.get_set_ne _ _ hk, rfl⟩
    simp only [vmidMatchValue_of_included hdef hc, includedBytesEqual_iff, byteOf_eq_iff]

/-- Settles O41: outside the rule the turn stores a free bit, and in that output only. -/
theorem unpredictableMatchIsFree : Obligations.UnpredictableMatchIsFree := by
  intro s n hp hn hbad
  have hdef : ¬ MatchDefined s n := by
    rintro ⟨ho, hzero⟩
    obtain hu | ⟨m, hm, hmask, j, hj, hone⟩ := hbad
    · exact ho hu
    · exact Bool.false_ne_true ((hzero m hm hmask j hj).symm.trans hone)
  rw [← vmidMatchValue_of_not_matchDefined hdef]
  exact ⟨_, runEvent_compare hp hn, PerComparator.get_set_same _ n _, fun k hk => PerComparator.get_set_ne _ _ hk, rfl⟩

/-! ### All bytes ignored (R36) -/

/-- A register is zero exactly where each of its eight bytes is. -/
theorem eq_zero_iff_byteOf (r : Reg) : r = 0#64 ↔ ∀ m < 8, byteOf r m = 0#8 := by
  constructor
  · rintro rfl m -
    exact BitVec.extractLsb'_zero
  · intro h
    apply BitVec.eq_of_getLsbD_eq
    intro i hi
    have hbit := byteOf_eq_zero_iff.1 (h (i / 8) (by omega)) (i % 8) (Nat.mod_lt i (by decide))
    rwa [Nat.div_add_mod, ← BitVec.getLsbD_zero (w := 64) (i := i)] at hbit

theorem maskBit_of_allIgnored {s : State} {n : Comparator} (hc : comp s n = 0xFF#8) {m : Nat} (hm : m < 8) :
    maskBit s n m = true := by
  rw [← ignored_eq_maskBit s n hm, ignored, hc, show 0xFF#8 = BitVec.allOnes 8 by decide, BitVec.getLsbD_allOnes,
    decide_eq_true hm]

/-- Settles O42: every byte is a masked one, so the mask is well formed exactly with a value register of zero. -/
theorem allBytesIgnored : Obligations.AllBytesIgnored := by
  intro s n hc
  have hwf : maskWellFormed s n = true ↔ s.trcvmidcvr.get n = 0#64 := by
    rw [maskWellFormed_iff, eq_zero_iff_byteOf]
    exact forall₂_congr fun m hm => forall_prop_of_true (maskBit_of_allIgnored hc hm)
  have hvalue (hzero : s.trcvmidcvr.get n = 0#64) (ho : s.maskOrigin ≠ .unpredictable) :=
    vmidMatchValue_of_allIgnored ((matchDefined_iff s n).2 ⟨ho, hwf.2 hzero⟩) hc
  refine ⟨hwf, hvalue, fun hp hn hzero ho => ?_⟩
  obtain ⟨hmatches, hdraw⟩ := hvalue hzero ho
  exact ⟨_, _, runEvent_compare hp hn, PerComparator.get_set_same _ n _, hmatches, hdraw,
    fun k hk => PerComparator.get_set_ne _ _ hk, rfl⟩

/-! ### What a comparison depends on (R34, R35) -/

/-- Settles O40: a masked bit is left out of the conjunction as it is left out of `BM(n)`. -/
theorem matchIsMaskedEquality : Obligations.MatchIsMaskedEquality := by
  intro s n bm hbm
  have hbit (i : Nat) (hi : i < 64) : (((s.trcvmidcvr.get n ^^^ s.vcid) &&& bm).getLsbD i = (0#64).getLsbD i) ↔
      (maskBit s n (i / 8) = false → (s.trcvmidcvr.get n).getLsbD i = s.vcid.getLsbD i) := by
    rw [BitVec.getLsbD_and, BitVec.getLsbD_xor, hbm i hi, BitVec.getLsbD_zero]
    cases maskBit s n (i / 8) <;> simp
  rw [includedBytesEqual_iff]
  constructor
  · intro h
    apply BitVec.eq_of_getLsbD_eq
    intro i hi
    refine (hbit i hi).2 fun hinc => ?_
    have hb := byteOf_eq_iff.1 (h (i / 8) (by omega) hinc) (i % 8) (Nat.mod_lt i (by decide))
    rwa [Nat.div_add_mod] at hb
  · intro h m hm hinc
    refine byteOf_eq_iff.2 fun j hj => (hbit (8 * m + j) (by omega)).1 (by rw [h]) ?_
    rwa [show (8 * m + j) / 8 = m by omega]

/-- Settles O43: an ignored byte of the identifier is left out of the conjunction, and nothing else looks at it. -/
theorem ignoredByteHasNoInfluence : Obligations.IgnoredByteHasNoInfluence := by
  intro s s1 n k hk h
  obtain ⟨hp, hn, rfl⟩ := runComparison_next h
  have hinc : includedBytesEqual { s with vcid := k } n = includedBytesEqual s n := by
    rw [Bool.eq_iff_iff, includedBytesEqual_iff, includedBytesEqual_iff]
    exact forall₃_congr fun m hm hm0 => by rw [byteOf_eq_iff.2 (hk m hm hm0)]
  have hvalue : vmidMatchValue { s with vcid := k } n = vmidMatchValue s n := by
    simp only [vmidMatchValue, hinc]
    rfl
  rw [runEvent_compare (s := { s with vcid := k }) hp hn, hvalue]
  rfl

/-- `VmidMatch(n)` depends on the register through `COMPn` and on the value registers through `TRCVMIDCVR<n>`. -/
theorem vmidMatchValue_congr (s : State) {n : Comparator} {r : Reg} {p : PerComparator Reg}
    (hcomp : comp { s with trcvmidcctlr1 := r } n = comp s n) (hvalue : p.get n = s.trcvmidcvr.get n) :
    vmidMatchValue { s with trcvmidcctlr1 := r, trcvmidcvr := p } n = vmidMatchValue s n := by
  have hcomp' : comp { s with trcvmidcctlr1 := r, trcvmidcvr := p } n = comp s n := hcomp
  simp only [vmidMatchValue, maskWellFormed, includedBytesEqual, ignored, hcomp', hvalue]
  rfl

/-- Settles O44: neither another comparator's value register nor a bit outside `COMPn` is among them. -/
theorem comparatorsAreIndependent : Obligations.ComparatorsAreIndependent := by
  intro s n k r v hk hr
  refine vmidMatchValue_congr s (BitVec.eq_of_getLsbD_eq fun m hm => ?_) (PerComparator.get_set_ne _ _ hk.symm)
  simp only [getLsbD_comp]
  rw [maskBitIndex, hr m hm]

/-! ### The duties of software (R65) -/

/-- Settles O39: after the write `COMPn` has the written bits, each of which stands for a zero byte. -/
theorem writeEstablishesTheDuties : Obligations.WriteEstablishesTheDuties := by
  intro s s' t hidle hx hzero
  obtain rfl := execMsr_next_idle hidle hx
  refine ⟨rfl, fun n hn => (maskWellFormedMeans _ n).2 fun m hm hmask => ?_⟩
  obtain ⟨hbit, hw⟩ := Bool.and_eq_true_iff.1 hmask
  have hi : 8 * (comparatorNumber n - 4) + m < 64 := (maskBitIndex_lt (comparatorNumber_le n) hm).trans (by decide)
  exact hzero n hn m hm hw ((getLsbD_replaceWritable_of_writable s _ hi hw).symm.trans hbit)

end Sys2Proof.Claims
end
